-- ==== Sys2Proof/Word.lean ====
section
/-! DEFINITION. The widths of the values the spec treats as bits (00_scope.md R13): a command, response or wire word,
a colour, a channel, a coordinate and a physical index; and the
counts of pixels, rows, columns and buttons (R9). -/

namespace Sys2Proof

/-- A 32-bit word: a command, a response, a WireWord or a millisecond time (R13). -/
abbrev Word := BitVec 32

/-- A 24-bit colour, `R ++ G ++ B` (R15). -/
abbrev Colour := BitVec 24

/-- An 8-bit colour channel (R13). -/
abbrev Channel := BitVec 8

/-- A 3-bit coordinate field, valid 0 to 4 (R91). -/
abbrev Coord := BitVec 3

/-- A 5-bit physical index field, valid 0 to 24 (R91). -/
abbrev PixelIndex := BitVec 5

/-- The number of pixels, `N_LED` (R9). -/
abbrev nLed : Nat := 25

/-- The number of rows, `N_ROW` (R9). -/
abbrev nRow : Nat := 5

/-- The number of columns, `N_COL` (R9). -/
abbrev nCol : Nat := 5

/-- The number of buttons, `N_BTN` (R9). -/
abbrev nBtn : Nat := 2

end Sys2Proof
end

