-- ==== Sys2Proof/Config.lean ====
section
/-! DEFINITION. What is fixed for one IALED: the named parameters of 00_scope.md R9 with their defaults, and the free
values of the model (constants with no body). -/

namespace Sys2Proof

/-- The named parameters of R9. `N_LED`, `N_ROW`, `N_COL` and `N_BTN` are fixed by the encodings and the transform
(R60, R90, R130) and stand as the constants `nLed`, `nRow`, `nCol` and `nBtn`; `T_BIT` is always a sum and is `Params.tBit`. -/
structure Params where
  /-- `F_CLK` in Hz. -/
  fClk : Nat
  /-- `T_SHORT` in ticks. -/
  tShort : Nat
  /-- `T_LONG` in ticks. -/
  tLong : Nat
  /-- `T_RESET` in ticks. -/
  tReset : Nat
  /-- `T_RESET_MIN` in ticks. -/
  tResetMin : Nat
  /-- `TXQ_DEPTH` in words. -/
  txqDepth : Nat
  /-- `TICKS_PER_MS`. -/
  ticksPerMs : Nat
  /-- `TIME_W` in bits. -/
  timeW : Nat
  /-- `DEBOUNCE_MS`. -/
  debounceMs : Nat
  /-- `SYNC_STAGES` in flops. -/
  syncStages : Nat
  /-- `TX_PRESENT`. -/
  txPresent : Bool
  /-- `BLINK_MS`, of the reference host only. -/
  blinkMs : Nat
  /-- `INTENSITY_Q8`, of the reference host only: the intensity in 1/256. -/
  intensityQ8 : Nat
deriving DecidableEq, Repr

/-- The defaults of R9. -/
def Params.default : Params where
  fClk := 20000000
  tShort := 8
  tLong := 17
  tReset := 2000
  tResetMin := 1000
  txqDepth := 4
  ticksPerMs := 20000
  timeW := 32
  debounceMs := 200
  syncStages := 2
  txPresent := true
  blinkMs := 100
  intensityQ8 := 128

/-- The inputs the block samples during one tick (R8, R11). -/
structure Inputs where
  /-- Pin `rst`. -/
  rst : Bool
  /-- Pin `cmd_valid`. -/
  cmdValid : Bool
  /-- Pins `cmd[31:0]`. -/
  cmd : Word
  /-- `btn_s[0]`, the sampled level of button A: `true` is released. -/
  btnA : Bool
  /-- `btn_s[1]`, the sampled level of button B. -/
  btnB : Bool
deriving DecidableEq, Repr, Inhabited

/-- FREE VALUE (assumption 3): the inputs of tick number `n` where State lists none. R201 puts no constraint on the
sampled streams and R92 none on the host, so nothing here constrains them. -/
opaque Config.freeInputs : Nat → Inputs

/-- FREE VALUE (assumption 6): what the sequencer would read from an entry beyond `FB[24]`. R36 item 1 says no run
reaches such a read; the spec gives it no value. -/
opaque Config.beyondFrameBuffer : Nat → Colour

end Sys2Proof
end

