-- ==== Sys2Proof/Syntax.lean ====
section
/-! DEFINITION. The instructions: one constructor for each row of spec/opcode_table.json, the eleven commands of R93
and the four wire items of R101 and R102. -/

namespace Sys2Proof

/-- A button index (R91): A is 0, B is 1. -/
inductive Button where
  | buttonA
  | buttonB
deriving DecidableEq, Repr

/-- The index of a button, below `N_BTN`: A is 0, B is 1 (R60, R91). -/
def Button.index : Button → Fin nBtn
  | .buttonA => 0
  | .buttonB => 1

/-- One constructor for each row of the table. Operand fields are as wide as their fields in the encoding (R90), so
that every encodable operand can be written, those that fault (R274) too. -/
inductive Instr where
  /-- `NOP` (R233). -/
  | nop
  /-- `ENC r, g, b` (R122). -/
  | enc (r g b : Channel)
  /-- `MAP x, y` (R133). -/
  | map (x y : Coord)
  /-- `CLR` (R141). -/
  | clr
  /-- `COL r, g, b` (R142). -/
  | col (r g b : Channel)
  /-- `PLOT x, y` (R143). -/
  | plot (x y : Coord)
  /-- `PUTI idx` (R144). -/
  | puti (idx : PixelIndex)
  /-- `RDPX idx` (R145). -/
  | rdpx (idx : PixelIndex)
  /-- `TX` (R161). -/
  | tx
  /-- `TAKE b` (R210). -/
  | take (btn : Button)
  /-- `TIME` (R232). -/
  | time
  /-- The line symbol of a data bit 0 (R101): an item of the transmit engine, never a command. -/
  | sym0
  /-- The line symbol of a data bit 1 (R101). -/
  | sym1
  /-- The reset/latch gap on the line (R101). -/
  | reset
  /-- A WireWord (R102): the item the engine takes from the queue. -/
  | wireword (g r b : Channel)
deriving DecidableEq, Repr

/-- Is the instruction one of the eleven commands of R93? The others are items of the transmit engine. -/
def Instr.isCommand : Instr → Bool
  | .nop | .enc .. | .map .. | .clr | .col .. | .plot .. | .puti .. | .rdpx .. | .tx | .take .. | .time => true
  | .sym0 | .sym1 | .reset | .wireword .. => false

end Sys2Proof
end

