-- ==== Sys2Proof/Machine/State.lean ====
section
/-! DEFINITION. The state of the machine as plain data: the block's registers (10_state.md R35), the world outside it
that drives its inputs (47_host_reference.md, 30_encoding.md R100), the reasons a step stops, and the reset state. -/

namespace Sys2Proof.Machine

/-! ## The block -/

/-- States of the frame sequencer (R25). Encoding value 3 is left out: it is unreachable (ID9). -/
inductive Seq where
  | sidle
  | swait
  | spush
deriving DecidableEq, Repr

/-- States of the transmit engine (R26). Encoding value 3 is left out: it is unreachable (ID9). -/
inductive Eng where
  | idle
  | shift
  | gap
deriving DecidableEq, Repr

/-- The transmit-engine registers (R26). -/
structure Engine where
  /-- `ENG`. -/
  eng : Eng
  /-- `SH`: bit 31 is on the wire while `ENG = SHIFT`. -/
  sh : Word
  /-- `BITCNT`: bits of the current word not yet finished. -/
  bitCnt : Nat
  /-- `PH`: the tick within the current bit. -/
  ph : Nat
  /-- `GAPCNT`: gap ticks already spent. -/
  gapCnt : Nat
deriving DecidableEq, Repr

/-- The registers of one capture unit (R28, R29, R32, R34). -/
structure Capture where
  /-- `SYNC1` to `SYNC<k>`, newest first, `k = SYNC_STAGES`. -/
  sync : List Bool
  /-- `PREV`. -/
  prev : Bool
  /-- `PENDING[b]`. -/
  pending : Bool
  /-- `LATV[b]`. -/
  latV : Bool
  /-- `LAT[b]`. -/
  lat : Word
deriving DecidableEq, Repr

/-- The values of `CAUSE` (R271); codes 4 to 7 are reserved and never arise (ID9). -/
inductive Cause where
  | none
  | txUnavailable
  | badIndex
  | illegalCmd
deriving DecidableEq, Repr

/-! ## The world outside the block -/

/-- One glyph of `FONT` (R242): `bitmap[y*5 + x]`, row 0 at the top, and a base colour. -/
structure Glyph where
  bitmap : Vector Bool nLed
  base : Colour
deriving DecidableEq, Repr

/-- `FONT` (R242): one glyph for each digit. -/
abbrev Font := Vector Glyph 10

/-- Which response the reference host is due to read in this tick. -/
inductive Wait where
  | none
  | time
  | takeA
  | takeB
deriving DecidableEq, Repr

/-- The reference host (R240 to R257). -/
structure RefHost where
  /-- `FONT`, an open parameter (D24): any value. -/
  font : Font
  /-- `DIGIT`. -/
  digit : Fin 10
  /-- `BLINK_LAST`. -/
  blinkLast : Word
  /-- `BLINK_LEVEL`. -/
  blinkLevel : Bool
  /-- The host's output line `led_status` (R252). -/
  ledStatus : Bool
  /-- The commands still to be offered, in order. -/
  todo : List Instr
  /-- The response due. -/
  wait : Wait
deriving DecidableEq, Repr

/-- A line of a host program (R99, R100). A command is its word, so that illegal words can be offered too. -/
inductive Directive where
  /-- A line that offers a command word until it is accepted (R99). -/
  | word (w : Word)
  /-- `RENDER d`. -/
  | render (d : Nat)
  /-- `.idle k`. -/
  | idle (k : Nat)
  /-- `.until_ready`. -/
  | untilReady
  /-- `.until_idle`. -/
  | untilIdle
  /-- `.btn b, v`: 1 (`true`) is released. -/
  | btn (b : Button) (v : Bool)
  /-- `.at_ms t`. -/
  | atMs (t : Word)
  /-- `.expect v`. -/
  | expect (v : Word)
deriving DecidableEq, Repr

/-- A host program in progress: the lines not yet done and the sampled button levels that `.btn` has set. -/
structure Script where
  font : Font
  btnA : Bool
  btnB : Bool
  rest : List Directive
deriving DecidableEq, Repr

/-- What drives the block's inputs. -/
inductive Env where
  /-- A free host and free buttons: the inputs of the coming ticks; past the end of the list a free draw. -/
  | port (stream : List Inputs)
  /-- The reference host drives the command port; `rst` and the buttons come from the stream as in `port`. -/
  | reference (host : RefHost) (stream : List Inputs)
  /-- A host program in the notation of R99 and R100 drives the command port and the buttons, with `rst = 0`. -/
  | script (prog : Script)
deriving DecidableEq, Repr

/-! ## The whole state -/

/-- The state `S(n)` of a tick: the registers of R35; below them the model's own fields. -/
structure State where
  /-- `FB[0..24]` (R21). -/
  fb : Vector Colour nLed
  /-- `COLOR` (R22). -/
  color : Colour
  /-- `SEQ` (R25). -/
  seq : Seq
  /-- `SIDX` (R25). -/
  sidx : Nat
  /-- `TXQ`, oldest word first (R27). -/
  txq : List Word
  /-- `ENG`, `SH`, `BITCNT`, `PH`, `GAPCNT` (R26). -/
  engine : Engine
  /-- `PRESC` (R33). -/
  presc : Nat
  /-- `TIME_MS` (R33). -/
  timeMs : Word
  /-- Capture unit of button A: `SYNC1[0]`, `SYNC2[0]`, `PREV[0]`, `PENDING[0]`, `LATV[0]`, `LAT[0]`. -/
  capA : Capture
  /-- Capture unit of button B. -/
  capB : Capture
  /-- `FAULT` (R30). -/
  fault : Bool
  /-- `CAUSE` (R30, R271). -/
  cause : Cause
  /-- `INFO` (R30). -/
  info : Word
  /-- `RSPV` (R31). -/
  rspV : Bool
  /-- `RSP` (R31). -/
  rsp : Word
  /-- The MODEL's own: the parameters of R9, which no step changes (R37). -/
  par : Params
  /-- The MODEL's own: what drives the inputs. -/
  env : Env
  /-- The MODEL's own: the number of steps taken, which numbers the free draws of inputs. -/
  tick : Nat
deriving DecidableEq, Repr

/-- Why the machine stops. The block itself never stops: its faults (R272) are next states with `FAULT = 1`. -/
inductive Fault where
  /-- Raised by a step under a host program whose `.expect v` does not hold: `rsp_valid` is 0 or `rsp` is not `v`
  (R100). Safe: the run ends where the program's own expectation says it must not go on. -/
  | expectation (want : Word)
deriving DecidableEq, Repr

/-- Why a step is refused. -/
inductive Refusal where
  /-- Raised by an arm of `exec` whose instruction has no meaning yet; no arm answers so. Safe. -/
  | notModelled (mnemonic : String)
  /-- Raised by every step whose parameters break a constraint of R10: "not an IALED" (ID14). Safe. -/
  | badParameters
  /-- Raised by a step under a host program that reaches `RENDER d` with `d` outside 0..9: it has no expansion (R100,
  R246, R276). Safe. -/
  | renderDigit (d : Nat)
deriving DecidableEq, Repr

/-! ## Reset -/

/-- A capture unit after reset (R35). -/
def Capture.afterReset (p : Params) : Capture where
  sync := List.replicate p.syncStages true
  prev := true
  pending := false
  latV := false
  lat := 0

/-- The transmit engine after reset: at the start of a full gap (R26). -/
def Engine.afterReset : Engine where
  eng := .gap
  sh := 0
  bitCnt := 0
  ph := 0
  gapCnt := 0

/-- The reset state of R35 for parameters `p`: faulted with cause 1 iff `TX_PRESENT` is false (R30, R275). -/
def State.resetOf (p : Params) : State where
  fb := Vector.replicate nLed 0
  color := 0
  seq := .sidle
  sidx := 0
  txq := []
  engine := Engine.afterReset
  presc := 0
  timeMs := 0
  capA := Capture.afterReset p
  capB := Capture.afterReset p
  fault := !p.txPresent
  cause := if p.txPresent then .none else .txUnavailable
  info := 0
  rspV := false
  rsp := 0
  par := p
  env := .port []
  tick := 0

/-- `S(0)`: the machine right after reset (R300, R301), with the default parameters and a free host. -/
def State.reset : State := State.resetOf Params.default

end Sys2Proof.Machine
end

