-- ==== Sys2Proof/Machine/Parameters.lean ====
section
/-! DEFINITION. The constraints between the parameters (00_scope.md R10), the derived bit period, and arithmetic on
millisecond times modulo `2^TIME_W` (44_debounce_capture.md R209). -/

namespace Sys2Proof.Machine

/-- `T_BIT = T_SHORT + T_LONG` (R9, R10). -/
def bitTicks (p : Params) : Nat := p.tShort + p.tLong

/-- The constraints of R10, `T_RESET_MIN / F_CLK >= 50 µs` among them as `T_RESET_MIN * 20000 >= F_CLK`. The last
three lines are DEDUCED (assumption 8): a clock has a positive frequency, the chain of flops has a first one, and a
millisecond time fits the 32-bit response word it is zero-extended to (R97). -/
def paramsOk (p : Params) : Bool :=
  [ decide (1 ≤ p.tShort), decide (p.tShort < p.tLong),
    decide (p.tResetMin ≤ p.tReset), decide (p.fClk ≤ p.tResetMin * 20000),
    decide (1 ≤ p.txqDepth), decide (p.ticksPerMs * 1000 = p.fClk),
    decide (0 < p.intensityQ8), decide (p.intensityQ8 ≤ 256),
    decide (p.debounceMs < 2 ^ (p.timeW - 1)),
    decide (1 ≤ p.ticksPerMs), decide (1 ≤ p.syncStages),
    decide (1 ≤ p.timeW), decide (p.timeW ≤ 32) ].all id

/-- `(t + 1) mod 2^TIME_W` (R231). -/
def timeSucc (p : Params) (t : Word) : Word := BitVec.ofNat 32 ((t.toNat + 1) % 2 ^ p.timeW)

/-- `(later - earlier) mod 2^TIME_W` in milliseconds (R206, R209, R250). -/
def elapsedMs (p : Params) (later earlier : Word) : Nat := (later - earlier).toNat % 2 ^ p.timeW

end Sys2Proof.Machine
end

