-- ==== Sys2Proof/Machine/Operands.lean ====
section
/-! DEFINITION. What the commands compute from their operands: the layout of a colour (00_scope.md R15), the colour
encoder (40_color_encoder.md R120), the serpentine transform (41_serpentine_mapper.md R130) and the range checks of
60_exceptions.md R274. -/

namespace Sys2Proof.Machine

/-- The colour `R ++ G ++ B` of three channels (R15). -/
def rgb (r g b : Channel) : Colour := r.setWidth 24 <<< 16 ||| g.setWidth 24 <<< 8 ||| b.setWidth 24

/-- `c[23:16]` (R15). -/
def red (c : Colour) : Channel := c.extractLsb' 16 8

/-- `c[15:8]` (R15). -/
def green (c : Colour) : Channel := c.extractLsb' 8 8

/-- `c[7:0]` (R15). -/
def blue (c : Colour) : Channel := c.extractLsb' 0 8

/-- `encode(r, g, b) = (g << 24) or (r << 16) or (b << 8)` (R120). -/
def wireWord (r g b : Channel) : Word := g.setWidth 32 <<< 24 ||| r.setWidth 32 <<< 16 ||| b.setWidth 32 <<< 8

/-- `encode(c)` of a 24-bit colour (R120). -/
def wireOf (c : Colour) : Word := wireWord (red c) (green c) (blue c)

/-- `physicalIndex(x, y)` (R130), for coordinates in 0 to 4; the transform has no value outside (R132), and every
caller checks first. -/
def physicalIndex (x y : Nat) : Nat :=
  let r := nRow - 1 - y
  r * nCol + (if r % 2 = 0 then nCol - 1 - x else x)

/-- `x > 4 or y > 4` (R133, R143), 4 being the last column and the last row. -/
def badCoords (x y : Coord) : Bool := decide (nCol - 1 < x.toNat) || decide (nRow - 1 < y.toNat)

/-- `idx > 24` (R144, R145), 24 being the last pixel. -/
def badIndex (idx : PixelIndex) : Bool := decide (nLed - 1 < idx.toNat)

/-- A one-bit flag zero-extended to a response word (R97). -/
def flagWord (f : Bool) : Word := if f then 1 else 0

end Sys2Proof.Machine
end

