-- ==== Sys2Proof/Machine/Flags.lean ====
section
/-! DEFINITION. The flags and pins computed from the state: the edge and accept flags (44_debounce_capture.md R203,
R206), the data line (43_transmitter.md R164), `cmd_ready` (10_state.md R39) and the cause codes (60_exceptions.md
R271). -/

namespace Sys2Proof.Machine

/-- The output of the synchronizer chain: `SYNC2` with two stages, the last flop in general (R34). -/
def synced (c : Capture) : Bool := c.sync.getLast?.getD c.prev

/-- `fall[b] = (PREV[b] = 1) and (SYNC2[b] = 0)` (R203). -/
def fall (c : Capture) : Bool := c.prev && !synced c

/-- `window_ok = (LATV[b] = 0) or (elapsed > DEBOUNCE_MS)` (R206). -/
def windowOk (p : Params) (timeMs : Word) (c : Capture) : Bool :=
  !c.latV || decide (p.debounceMs < elapsedMs p timeMs c.lat)

/-- `accept[b] = fall[b] and (PENDING[b] = 0) and window_ok` (R206). -/
def accept (p : Params) (timeMs : Word) (c : Capture) : Bool :=
  fall c && !c.pending && windowOk p timeMs c

/-- The capture unit of a button (R60). -/
def State.cap (s : State) : Button → Capture
  | .buttonA => s.capA
  | .buttonB => s.capB

/-- `accept[b]` in state `s`. -/
def State.accepts (s : State) (b : Button) : Bool := accept s.par s.timeMs (s.cap b)

/-- Pin `dout` (R164). -/
def State.dout (s : State) : Bool :=
  decide (s.engine.eng = .shift) &&
  decide (s.engine.ph < (if s.engine.sh.getLsbD 31 then s.par.tLong else s.par.tShort))

/-- `cmd_ready = (SEQ = SIDLE) and (FAULT = 0) and (rst = 0)` (R39), for the given level of `rst`. -/
def State.readyAt (s : State) (rst : Bool) : Bool := decide (s.seq = .sidle) && !s.fault && !rst

/-- The 3-bit code of `CAUSE` (R271). -/
def causeCode : Cause → BitVec 3
  | .none => 0
  | .txUnavailable => 1
  | .badIndex => 2
  | .illegalCmd => 3

end Sys2Proof.Machine
end

