-- ==== Sys2Proof/Machine/Capture.lean ====
section
/-! DEFINITION. One tick of a capture unit (44_debounce_capture.md R202, R206) and of the millisecond clock
(45_time_and_misc.md R231). -/

namespace Sys2Proof.Machine

/-- The synchronizer's shift: `SYNC1' <- btn_s`, each later flop takes the one before it, and `PREV'` the last
(R202, R34). -/
def shiftSync (c : Capture) (sample : Bool) : Capture :=
  { c with sync := (sample :: c.sync).dropLast, prev := synced c }

/-- One tick of a capture unit on the sample `btn_s[b](n)` when no `TAKE` of it is accepted (R202, R206). -/
def captureStep (p : Params) (timeMs : Word) (c : Capture) (sample : Bool) : Capture :=
  if accept p timeMs c then { shiftSync c sample with pending := true, lat := timeMs, latV := true }
  else shiftSync c sample

/-- `PRESC'` (R231). -/
def prescStep (p : Params) (presc : Nat) : Nat := if presc = p.ticksPerMs - 1 then 0 else presc + 1

/-- `TIME_MS'` (R231). -/
def timeStep (p : Params) (presc : Nat) (timeMs : Word) : Word :=
  if presc = p.ticksPerMs - 1 then timeSucc p timeMs else timeMs

end Sys2Proof.Machine
end

