-- ==== Sys2Proof/WellFormed.lean ====
section
/-! DEFINITION. Which instructions have valid operands (30_encoding.md R91). The others are encodable, decode as
themselves and fault when they execute (R274). -/

namespace Sys2Proof

/-- `x` and `y` are valid in 0 to 4, below `N_COL` and `N_ROW` (R91). -/
def coordsValid (x y : Coord) : Bool := decide (x.toNat < nCol) && decide (y.toNat < nRow)

/-- `idx` is valid in 0 to 24, below `N_LED` (R91). -/
def indexValid (idx : PixelIndex) : Bool := decide (idx.toNat < nLed)

/-- Every operand of the instruction is in its valid range (R91). -/
def Instr.wellFormed : Instr → Bool
  | .map x y => coordsValid x y
  | .plot x y => coordsValid x y
  | .puti idx => indexValid idx
  | .rdpx idx => indexValid idx
  | .nop | .enc .. | .clr | .col .. | .tx | .take .. | .time => true
  | .sym0 | .sym1 | .reset | .wireword .. => true

end Sys2Proof
end

