-- ==== Sys2Proof/Decode.lean ====
section
/-! DEFINITION. The command decoder (30_encoding.md R90 to R95), the wire-word decoder (R102), the encoder, and the
numbering of spec/opcode_table.json. -/

namespace Sys2Proof

/-- Why a word is illegal on the command port (R94). -/
inductive DecodeError where
  /-- `op` is in 0xB to 0xF. -/
  | unusedOpcode
  /-- Bits `[27:24]` are not zero. -/
  | reservedNibble
  /-- A must-be-zero bit of the operand is not zero. -/
  | operandBits
deriving DecidableEq, Repr

/-! ## Fields (R90) -/

/-- Opcode, bits `[31:28]`. -/
def fieldOp (w : Word) : BitVec 4 := w.extractLsb' 28 4

/-- Operand `r` of format C, bits `[23:16]`. -/
def fieldR (w : Word) : Channel := w.extractLsb' 16 8

/-- Operand `g` of format C, bits `[15:8]`. -/
def fieldG (w : Word) : Channel := w.extractLsb' 8 8

/-- Operand `b` of format C, bits `[7:0]`. -/
def fieldB (w : Word) : Channel := w.extractLsb' 0 8

/-- Operand `y` of format XY, bits `[5:3]`. -/
def fieldY (w : Word) : Coord := w.extractLsb' 3 3

/-- Operand `x` of format XY, bits `[2:0]`. -/
def fieldX (w : Word) : Coord := w.extractLsb' 0 3

/-- Operand `idx` of format I, bits `[4:0]`. -/
def fieldIdx (w : Word) : PixelIndex := w.extractLsb' 0 5

/-- Operand `b` of format B, bit `[0]`. -/
def fieldButton (w : Word) : Button := if w.getLsbD 0 then .buttonB else .buttonA

/-! ## Decoding -/

/-- A word is in a row of the table iff `w and mask = match` (R93). -/
def inRow (mask mtch w : Word) : Bool := w &&& mask == mtch

/-- The name under which a word that matches no row is rejected (R94). -/
def rejectName (w : Word) : DecodeError :=
  if 0xA < (fieldOp w).toNat then .unusedOpcode
  else if w &&& 0x0F000000 != 0 then .reservedNibble
  else .operandBits

/-- The command a word on the command port is, row by row of R93; total, and a word of no row is rejected by name. -/
def decode (w : Word) : Except DecodeError Instr :=
  if inRow 0xFFFFFFFF 0x00000000 w then .ok .nop
  else if inRow 0xFF000000 0x10000000 w then .ok (.enc (fieldR w) (fieldG w) (fieldB w))
  else if inRow 0xFFFFFFC0 0x20000000 w then .ok (.map (fieldX w) (fieldY w))
  else if inRow 0xFFFFFFFF 0x30000000 w then .ok .clr
  else if inRow 0xFF000000 0x40000000 w then .ok (.col (fieldR w) (fieldG w) (fieldB w))
  else if inRow 0xFFFFFFC0 0x50000000 w then .ok (.plot (fieldX w) (fieldY w))
  else if inRow 0xFFFFFFE0 0x60000000 w then .ok (.puti (fieldIdx w))
  else if inRow 0xFFFFFFE0 0x70000000 w then .ok (.rdpx (fieldIdx w))
  else if inRow 0xFFFFFFFF 0x80000000 w then .ok .tx
  else if inRow 0xFFFFFFFE 0x90000000 w then .ok (.take (fieldButton w))
  else if inRow 0xFFFFFFFF 0xA0000000 w then .ok .time
  else .error (rejectName w)

/-- What the transmit engine reads in a queue word: `GGGGGGGG RRRRRRRR BBBBBBBB 00000000` (R102). A word with a
non-zero padding byte is no WireWord. -/
def decodeWire (w : Word) : Option Instr :=
  if inRow 0x000000FF 0x00000000 w then
    some (.wireword (w.extractLsb' 24 8) (w.extractLsb' 16 8) (w.extractLsb' 8 8))
  else none

/-- The line symbol of a data bit (R101). -/
def symbolOf (bit : Bool) : Instr := if bit then .sym1 else .sym0

/-! ## Encoding -/

/-- Format Z: `op` over an operand of zeros. -/
def wordZ (op : BitVec 4) : Word := op.setWidth 32 <<< 28

/-- Format C: `op ++ 0x0 ++ r ++ g ++ b`. -/
def wordC (op : BitVec 4) (r g b : Channel) : Word :=
  op.setWidth 32 <<< 28 ||| r.setWidth 32 <<< 16 ||| g.setWidth 32 <<< 8 ||| b.setWidth 32

/-- Format XY: `op ++ 0x0 ++ zeros(18) ++ y ++ x`. -/
def wordXY (op : BitVec 4) (x y : Coord) : Word :=
  op.setWidth 32 <<< 28 ||| y.setWidth 32 <<< 3 ||| x.setWidth 32

/-- Format I: `op ++ 0x0 ++ zeros(19) ++ idx`. -/
def wordI (op : BitVec 4) (idx : PixelIndex) : Word := op.setWidth 32 <<< 28 ||| idx.setWidth 32

/-- Format B: `op ++ 0x0 ++ zeros(23) ++ b`. -/
def wordB (op : BitVec 4) (btn : Button) : Word :=
  op.setWidth 32 <<< 28 ||| BitVec.ofNat 32 btn.index.val

/-- A WireWord: `GGGGGGGG RRRRRRRR BBBBBBBB 00000000` (R102). -/
def wordWire (g r b : Channel) : Word := g.setWidth 32 <<< 24 ||| r.setWidth 32 <<< 16 ||| b.setWidth 32 <<< 8

/-- The word of an instruction (R90, R93; R102 for a WireWord). A line symbol's word is its pattern of `dout`
levels, first tick in the highest of the row's bits (R101); of the gap's zeros a word holds the last 32. -/
def encode : Instr → Word
  | .nop => wordZ 0x0
  | .enc r g b => wordC 0x1 r g b
  | .map x y => wordXY 0x2 x y
  | .clr => wordZ 0x3
  | .col r g b => wordC 0x4 r g b
  | .plot x y => wordXY 0x5 x y
  | .puti idx => wordI 0x6 idx
  | .rdpx idx => wordI 0x7 idx
  | .tx => wordZ 0x8
  | .take btn => wordB 0x9 btn
  | .time => wordZ 0xA
  | .sym0 => 0b1111111100000000000000000
  | .sym1 => 0b1111111111111111100000000
  | .reset => 0
  | .wireword g r b => wordWire g r b

/-! ## The numbering of the opcode table -/

/-- How many bits the table gives the row. -/
def tableBits : Instr → Nat
  | .sym0 | .sym1 => 25
  | .reset => 2000
  | _ => 32

/-- The bits every word of the row has fixed (R93; R102; the whole pattern of a line symbol, R101). -/
def tableMask : Instr → Word
  | .nop | .clr | .tx | .time => 0xFFFFFFFF
  | .enc .. | .col .. => 0xFF000000
  | .map .. | .plot .. => 0xFFFFFFC0
  | .puti .. | .rdpx .. => 0xFFFFFFE0
  | .take .. => 0xFFFFFFFE
  | .sym0 | .sym1 => 0x01FFFFFF
  | .reset => 0xFFFFFFFF
  | .wireword .. => 0x000000FF

/-- The values of the fixed bits. -/
def tableMatch : Instr → Word
  | .nop => 0x00000000
  | .enc .. => 0x10000000
  | .map .. => 0x20000000
  | .clr => 0x30000000
  | .col .. => 0x40000000
  | .plot .. => 0x50000000
  | .puti .. => 0x60000000
  | .rdpx .. => 0x70000000
  | .tx => 0x80000000
  | .take .. => 0x90000000
  | .time => 0xA0000000
  | .sym0 => 0x01FE0000
  | .sym1 => 0x01FFFF00
  | .reset => 0
  | .wireword .. => 0

/-- The line symbol whose pattern of `dout` levels is `w`, the first tick in the highest of the 25 bits (R101). -/
def symbolPattern (w : Nat) : Option Instr :=
  if w = 0b1111111100000000000000000 then some .sym0
  else if w = 0b1111111111111111100000000 then some .sym1
  else none

/-- The instruction read from `nbits` bits numbered as the table numbers them. 32 bits are a word on the command port
(a WireWord has no bits that tell it from a command: the engine's own decoder is `decodeWire`), or, where it is none,
the 25 bits of a line symbol in whole bytes; 25 and 2000 bits are the patterns of the line symbols and of the gap
(assumption 14). -/
def decodeTableWord (nbits w : Nat) : Option Instr :=
  if nbits = 32 then
    match decode (BitVec.ofNat 32 w) with
    | .ok i => some i
    | .error _ => symbolPattern w
  else if nbits = 25 then symbolPattern w
  else if nbits = 2000 then
    if w = 0 then some .reset else none
  else none

end Sys2Proof
end

