-- ==== Sys2Proof/Machine/RefHost.lean ====
section
/-! DEFINITION. The reference host (47_host_reference.md): scaling, `render`, the blink indicator and the dispatch
loop, and the spec's example font. -/

namespace Sys2Proof.Machine

/-! ## Digit Renderer -/

/-- `scale(c) = (c * INTENSITY_Q8) div 256` (R243). -/
def scale (p : Params) (c : Channel) : Channel := BitVec.ofNat 8 (c.toNat * p.intensityQ8 / 256)

/-- The scaled colour of a glyph (R244). -/
def scaledColour (p : Params) (g : Glyph) : Colour :=
  rgb (scale p (red g.base)) (scale p (green g.base)) (scale p (blue g.base))

/-- Whether logical position `(x, y)` of a glyph is set: `bitmap[y*5 + x]` (R242). -/
def glyphBit (g : Glyph) (x y : Nat) : Bool := g.bitmap.toList.getD (y * nCol + x) false

/-- The `PLOT`s of a render: one for each set bit, row-major (R244, D31). -/
def renderPlots (g : Glyph) : List Instr :=
  (List.range nRow).flatMap fun y => (List.range nCol).filterMap fun x =>
    if glyphBit g x y then some (.plot (BitVec.ofNat 3 x) (BitVec.ofNat 3 y)) else none

/-- What follows the `CLR` of `render(d)` (R244). -/
def renderTail (p : Params) (font : Font) (d : Fin 10) : List Instr :=
  let g := font[d]
  .col (scale p (red g.base)) (scale p (green g.base)) (scale p (blue g.base)) :: (renderPlots g ++ [.tx])

/-- `render(d)` as a command sequence (R244). -/
def render (p : Params) (font : Font) (d : Fin 10) : List Instr := .clr :: renderTail p font d

/-! ## Blink Indicator -/

/-- `tick(now)` (R250). -/
def blinkTick (p : Params) (h : RefHost) (now : Word) : RefHost :=
  if p.blinkMs ≤ elapsedMs p now h.blinkLast then
    { h with blinkLast := now, blinkLevel := !h.blinkLevel, ledStatus := !h.blinkLevel }
  else h

/-! ## Dispatch Loop -/

/-- The host at its start: digit 0, rendered once, then the loop (R241, R257). -/
def RefHost.start (p : Params) (font : Font) : RefHost where
  font := font
  digit := 0
  blinkLast := 0
  blinkLevel := false
  ledStatus := false
  todo := render p font 0 ++ [.time]
  wait := .none

/-- An event of button A: `DIGIT <- (DIGIT = 9 ? 0 : DIGIT + 1)` (R255, R256). -/
def digitUp (d : Fin 10) : Fin 10 := if d.val = 9 then 0 else d + 1

/-- An event of button B: `DIGIT <- (DIGIT = 0 ? 9 : DIGIT - 1)` (R255, R256). -/
def digitDown (d : Fin 10) : Fin 10 := if d.val = 0 then 9 else d - 1

/-- What the host does with the response it is due in this tick (R255): one pass of the loop is `TIME`, `TAKE 0`,
`TAKE 1`, each followed by its action. -/
def RefHost.react (p : Params) (h : RefHost) (rspV : Bool) (rsp : Word) : RefHost :=
  if rspV then
    match h.wait with
    | .none => h
    | .time => { blinkTick p h rsp with todo := [.take .buttonA], wait := .none }
    | .takeA =>
      if rsp.getLsbD 0 then
        { h with digit := digitUp h.digit, todo := render p h.font (digitUp h.digit) ++ [.take .buttonB], wait := .none }
      else { h with todo := [.take .buttonB], wait := .none }
    | .takeB =>
      if rsp.getLsbD 0 then
        { h with digit := digitDown h.digit, todo := render p h.font (digitDown h.digit) ++ [.time], wait := .none }
      else { h with todo := [.time], wait := .none }
  else h

/-- Which response follows a command of the loop. -/
def waitFor : Instr → Wait
  | .time => .time
  | .take .buttonA => .takeA
  | .take .buttonB => .takeB
  | _ => .none

/-- The host after the command it offers was accepted. -/
def RefHost.accepted (h : RefHost) : RefHost :=
  match h.todo with
  | [] => h
  | i :: rest => { h with todo := rest, wait := waitFor i }

/-! ## The example font (R260), the spec's own and not the repository's -/

/-- A row of a glyph from its bits, `x = 0` first. -/
def glyphRows (base : Colour) (rows : List (List Bool)) : Glyph where
  bitmap := Vector.ofFn fun k => rows.flatten.getD k.val false
  base := base

/-- The five row patterns of the example font: `.###.`, `.#.#.`, `..#..`, `.##..`, `...#.`, `.#...` (R260). -/
def rowFull : List Bool := [false, true, true, true, false]
def rowSides : List Bool := [false, true, false, true, false]
def rowMid : List Bool := [false, false, true, false, false]
def rowMidLeft : List Bool := [false, true, true, false, false]
def rowRight : List Bool := [false, false, false, true, false]
def rowLeft : List Bool := [false, true, false, false, false]

/-- `FONT_EXAMPLE` (R260). -/
def fontExample : Font := #v[
  glyphRows 0xFF0000 [rowFull, rowSides, rowSides, rowSides, rowFull],
  glyphRows 0x00FF00 [rowMid, rowMidLeft, rowMid, rowMid, rowFull],
  glyphRows 0x0000FF [rowFull, rowRight, rowFull, rowLeft, rowFull],
  glyphRows 0xFFFF00 [rowFull, rowRight, rowFull, rowRight, rowFull],
  glyphRows 0xFF00FF [rowSides, rowSides, rowFull, rowRight, rowRight],
  glyphRows 0x00FFFF [rowFull, rowLeft, rowFull, rowRight, rowFull],
  glyphRows 0xFFFFFF [rowFull, rowLeft, rowFull, rowSides, rowFull],
  glyphRows 0xFF8000 [rowFull, rowRight, rowRight, rowRight, rowRight],
  glyphRows 0x8000FF [rowFull, rowSides, rowFull, rowSides, rowFull],
  glyphRows 0x33CC99 [rowFull, rowSides, rowFull, rowRight, rowFull]]

end Sys2Proof.Machine
end

