-- ==== Sys2Proof/Machine/Outside.lean ====
section
/-! DEFINITION. What the world outside the block does in one tick: the levels it drives on the input pins, and how it
goes on, whichever of a free host, the reference host or a host program is in State (00_scope.md R11, 30_encoding.md
R92, R99, R100). -/

namespace Sys2Proof.Machine

/-- What drives the pins in one tick, and how the outside goes on. -/
structure Turn where
  /-- Pin `rst`. -/
  rst : Bool
  /-- The word offered on the command port: `none` is `cmd_valid = 0`. -/
  offer : Option Word
  /-- `btn_s[0]`. -/
  btnA : Bool
  /-- `btn_s[1]`. -/
  btnB : Bool
  /-- The outside in the next tick if the offer is not accepted. -/
  held : Env
  /-- The outside in the next tick if the offer is accepted. -/
  taken : Env
  /-- A host program that stops here: its failed `.expect`, or a `RENDER` that has no expansion. -/
  stop : Option (Fault ⊕ Refusal)
deriving DecidableEq, Repr

/-- The samples of this tick: the head of the stream, past its end a free draw (R201, R92). -/
def samples (tick : Nat) : List Inputs → Inputs
  | [] => Config.freeInputs tick
  | i :: _ => i

/-- The sampled level of a button, `btn_s[b]` (R201). -/
def Turn.btn (t : Turn) : Button → Bool
  | .buttonA => t.btnA
  | .buttonB => t.btnB

/-! ## A free host -/

def portTurn (tick : Nat) (stream : List Inputs) : Turn :=
  let i := samples tick stream
  { rst := i.rst
    offer := if i.cmdValid then some i.cmd else none
    btnA := i.btnA
    btnB := i.btnB
    held := .port stream.tail
    taken := .port stream.tail
    stop := none }

/-! ## The reference host -/

/-- The host reads its response and offers its next command in the same tick (assumption 12). -/
def referenceTurn (s : State) (h : RefHost) (stream : List Inputs) : Turn :=
  let i := samples s.tick stream
  let h' := h.react s.par s.rspV s.rsp
  { rst := i.rst
    offer := h'.todo.head?.map encode
    btnA := i.btnA
    btnB := i.btnB
    held := .reference h' stream.tail
    taken := .reference h'.accepted stream.tail
    stop := none }

/-! ## A host program -/

/-- A tick in which a host program offers nothing and goes on as `next`. -/
def scriptPause (next : Script) : Turn :=
  { rst := false, offer := none, btnA := next.btnA, btnB := next.btnB
    held := .script next, taken := .script next, stop := none }

/-- A tick in which a host program offers `w`, goes on as `held` and, once accepted, as `taken`. -/
def scriptOffer (w : Word) (held taken : Script) : Turn :=
  { rst := false, offer := some w, btnA := held.btnA, btnB := held.btnB
    held := .script held, taken := .script taken, stop := none }

/-- A tick in which a host program stops. -/
def scriptStop (at_ : Script) (why : Fault ⊕ Refusal) : Turn := { scriptPause at_ with stop := some why }

/-- Carries out the lines that take no time, from the first, until one takes this tick (R99, R100; which lines take no
time, and when `.expect` holds, are a DESIGN CHOICE, log entry 15). `.at_ms t` reached when millisecond `t` already runs
goes on at once, and reached when it is past waits until the clock, having wrapped, shows `t` again (DESIGN CHOICE, log
entry 19: R100 does not say). -/
def scriptTurn (s : State) (font : Font) : List Directive → Bool → Bool → Turn
  | [], btnA, btnB => scriptPause { font, btnA, btnB, rest := [] }
  | .btn .buttonA v :: rest, _, btnB => scriptTurn s font rest v btnB
  | .btn .buttonB v :: rest, btnA, _ => scriptTurn s font rest btnA v
  | .expect v :: rest, btnA, btnB =>
    if s.rspV ∧ s.rsp = v then scriptTurn s font rest btnA btnB
    else scriptStop { font, btnA, btnB, rest := .expect v :: rest } (.inl (.expectation v))
  | .idle 0 :: rest, btnA, btnB => scriptTurn s font rest btnA btnB
  | .idle (k + 1) :: rest, btnA, btnB => scriptPause { font, btnA, btnB, rest := .idle k :: rest }
  | .untilReady :: rest, btnA, btnB =>
    if s.readyAt false then scriptTurn s font rest btnA btnB
    else scriptPause { font, btnA, btnB, rest := .untilReady :: rest }
  | .untilIdle :: rest, btnA, btnB =>
    if s.engine.eng = .idle ∧ s.txq.length = 0 then scriptTurn s font rest btnA btnB
    else scriptPause { font, btnA, btnB, rest := .untilIdle :: rest }
  | .atMs t :: rest, btnA, btnB =>
    if s.timeMs = t then scriptTurn s font rest btnA btnB
    else scriptPause { font, btnA, btnB, rest := .atMs t :: rest }
  | .word w :: rest, btnA, btnB =>
    scriptOffer w { font, btnA, btnB, rest := .word w :: rest } { font, btnA, btnB, rest := rest }
  | .render d :: rest, btnA, btnB =>
    if h : d < 10 then
      scriptOffer (encode .clr) { font, btnA, btnB, rest := .render d :: rest }
        { font, btnA, btnB, rest := (renderTail s.par font ⟨d, h⟩).map (fun i => .word (encode i)) ++ rest }
    else scriptStop { font, btnA, btnB, rest := .render d :: rest } (.inr (.renderDigit d))

/-! ## The turn of the outside in a state -/

def State.turn (s : State) : Turn :=
  match s.env with
  | .port stream => portTurn s.tick stream
  | .reference h stream => referenceTurn s h stream
  | .script prog => scriptTurn s prog.font prog.rest prog.btnA prog.btnB

/-- Pin `cmd_ready` (R39). -/
def State.cmdReady (s : State) : Bool := s.readyAt s.turn.rst

/-- The word accepted in this tick, if any: offered while `cmd_ready = 1` (R92). -/
def State.acceptedWord (s : State) : Option Word := if s.cmdReady then s.turn.offer else none

/-- The outside after a tick with `rst = 1`: the reference host starts anew (assumption 13). -/
def envAfterReset (s : State) : Env :=
  match s.env with
  | .port stream => .port stream.tail
  | .reference h stream => .reference (RefHost.start s.par h.font) stream.tail
  | .script prog => .script prog

end Sys2Proof.Machine
end

