-- ==== Sys2Proof/Machine/Transmitter.lean ====
section
/-! DEFINITION. The frame sequencer and the transmit engine (43_transmitter.md R162 to R175): what each does in one
tick, and the items the engine can begin. -/

namespace Sys2Proof.Machine

/-! ## Beginning an item -/

/-- The engine takes `w` as its next word (R168, R171). -/
def loadWord (e : Engine) (w : Word) : Engine :=
  { e with eng := .shift, sh := w, bitCnt := 24, ph := 0 }

/-- The engine goes on to the next lower bit of its word (R170). -/
def nextBit (e : Engine) : Engine :=
  { e with sh := e.sh <<< 1, bitCnt := e.bitCnt - 1, ph := 0 }

/-- The engine begins the gap (R172). -/
def beginGap (e : Engine) : Engine :=
  { e with eng := .gap, gapCnt := 0, bitCnt := 0, ph := 0, sh := e.sh <<< 1 }

/-- The engine begins the symbol of `bit` as the next bit on the wire: inside a word in the place of the word's next
bit, otherwise as a word of one bit (R101, R170; assumption 11). -/
def beginSymbol (e : Engine) (bit : Bool) : Engine :=
  { e with
    eng := .shift
    sh := (e.sh <<< 1 &&& 0x7FFFFFFF) ||| (if bit then 0x80000000 else 0)
    bitCnt := if e.eng = .shift ∧ 1 < e.bitCnt then e.bitCnt - 1 else 1
    ph := 0 }

/-- The engine stands at the end of a bit: idle, or in the last tick of a bit. -/
def atBitEnd (p : Params) (e : Engine) : Bool :=
  match e.eng with
  | .idle => true
  | .shift => decide (e.ph = bitTicks p - 1)
  | .gap => false

/-- The engine stands at the end of a word: idle, or in the last tick of a word's last bit. -/
def atWordEnd (p : Params) (e : Engine) : Bool :=
  match e.eng with
  | .idle => true
  | .shift => decide (e.ph = bitTicks p - 1) && decide (e.bitCnt = 1)
  | .gap => false

/-! ## One tick of the engine -/

/-- One tick of the engine on the queue of `S(n)`: the engine of `S(n+1)`, and the queue after its pop
(R168 to R175; R163). -/
def engineStep (p : Params) (e : Engine) (q : List Word) : Engine × List Word :=
  match e.eng with
  | .idle =>
    match q with
    | [] => (e, [])
    | w :: rest => (loadWord e w, rest)
  | .shift =>
    if e.ph < bitTicks p - 1 then ({ e with ph := e.ph + 1 }, q)
    else if e.ph = bitTicks p - 1 then
      if 1 < e.bitCnt then (nextBit e, q)
      else if e.bitCnt = 1 then
        match q with
        | [] => (beginGap e, [])
        | w :: rest => (loadWord e w, rest)
      else (e, q)
    else (e, q)
  | .gap =>
    if e.gapCnt < p.tReset - 1 then ({ e with gapCnt := e.gapCnt + 1 }, q)
    else if e.gapCnt = p.tReset - 1 then ({ e with eng := .idle, gapCnt := 0 }, q)
    else (e, q)

/-- The table's row for the item the engine begins in this tick, read from its own registers and the queue: a WireWord
when it takes one (R168, R171), a symbol when it goes on to a word's next bit (R170), the gap when the queue has run
out (R172). -/
def engineItem (p : Params) (e : Engine) (q : List Word) : Option Instr :=
  if atWordEnd p e then
    match q with
    | w :: _ => decodeWire w
    | [] => if e.eng = .shift then some .reset else none
  else if e.eng = .shift ∧ e.ph = bitTicks p - 1 ∧ 1 < e.bitCnt then some (symbolOf (e.sh.getLsbD 30))
  else none

/-! ## One tick of the sequencer -/

/-- `FB[i]` (R21). Beyond the last entry the spec gives no value, and it is free (assumption 6). -/
def fbRead (s : State) (i : Nat) : Colour :=
  if h : i < nLed then s.fb[i] else Config.beyondFrameBuffer i

/-- What the sequencer leaves for `S(n+1)`: its state, its index, and the word it pushes, if any. -/
structure SeqOut where
  seq : Seq
  sidx : Nat
  push : List Word
deriving DecidableEq, Repr

/-- One tick of the sequencer when no `TX` is accepted (R165 to R167). -/
def seqStep (s : State) : SeqOut :=
  match s.seq with
  | .sidle => { seq := .sidle, sidx := s.sidx, push := [] }
  | .swait =>
    if s.engine.eng = .idle ∧ s.txq.length = 0 then { seq := .spush, sidx := 0, push := [] }
    else { seq := .swait, sidx := s.sidx, push := [] }
  | .spush =>
    if s.txq.length < s.par.txqDepth then
      { seq := if s.sidx = nLed - 1 then .sidle else .spush
        sidx := s.sidx + 1
        push := [wireOf (fbRead s s.sidx)] }
    else { seq := .spush, sidx := s.sidx, push := [] }

end Sys2Proof.Machine
end

