-- ==== Sys2Proof/Machine/Ops.lean ====
section
/-! DEFINITION. One tick of the units that step by themselves (45_time_and_misc.md R234), and the operations the
commands are made of: the response, the frame-buffer write, raising a fault, and reset, the only return from one. -/

namespace Sys2Proof.Machine

/-- A tick in which the engine does what is given and everything else that steps by itself does its rule: the
sequencer (R165 to R167), the timer (R231), both capture units (R202, R206), the outside. Every part reads `S(n)`
(R11, R70). `RSPV' = 0` (R96); `RSP`, `FB`, `COLOR` and the fault registers keep their values (R11). `acc` says whether
the outside's offer was accepted. -/
def State.advanceWith (s : State) (acc : Bool) (eng : Engine × List Word) : State :=
  { s with
    seq := (seqStep s).seq
    sidx := (seqStep s).sidx
    txq := eng.2 ++ (seqStep s).push
    engine := eng.1
    presc := prescStep s.par s.presc
    timeMs := timeStep s.par s.presc s.timeMs
    capA := captureStep s.par s.timeMs s.capA s.turn.btnA
    capB := captureStep s.par s.timeMs s.capB s.turn.btnB
    rspV := false
    env := if acc then s.turn.taken else s.turn.held
    tick := s.tick + 1 }

/-- One tick of the units that step by themselves: what `S(n+1)` is but for what a command writes (R234). -/
def State.advance (s : State) (acc : Bool) : State := s.advanceWith acc (engineStep s.par s.engine s.txq)

/-- A tick in which no command is accepted (R234). -/
def idleTick (s : State) : State := s.advance false

/-- A tick in which the engine begins the given item if it stands where one can begin, and otherwise goes on as by
itself (assumption 11). -/
def itemTick (s : State) (can : Bool) (begun : Engine × List Word) : State :=
  if can then s.advanceWith false begun else idleTick s

/-- `rsp <- v`: `RSPV' <- 1`, `RSP' <- v` (R14, R96). -/
def respond (s : State) (v : Word) : State := { s with rspV := true, rsp := v }

/-- `FbWrite(i, v)`: `FB[i]' <- v` (R14); callers have checked the index, and none other is written. -/
def fbWrite (s : State) (i : Nat) (v : Colour) : State := { s with fb := s.fb.setIfInBounds i v }

/-- `PENDING[b]' <- v` (R210). -/
def setPending (s : State) (b : Button) (v : Bool) : State :=
  match b with
  | .buttonA => { s with capA := { s.capA with pending := v } }
  | .buttonB => { s with capB := { s.capB with pending := v } }

/-- `raise Fault(cause, info)` in the tick in which the offending command is accepted (R272): the block's one way of
taking an exception. Nothing is saved, no mode changes, and every unit makes its tick (R282). -/
def raiseFault (s : State) (cause : Cause) (info : Word) : State :=
  { s.advance true with fault := true, cause := cause, info := info, rspV := false }

/-- A tick in which an illegal word is accepted (R94, R273). -/
def illegalTick (s : State) (w : Word) : State := raiseFault s .illegalCmd w

/-- A tick with `rst = 1`: `S(n+1)` is the reset state whatever `S(n)` and the other inputs are (R300). It is the only
return from a fault (R279). -/
def resetTick (s : State) : State :=
  { State.resetOf s.par with env := envAfterReset s, tick := s.tick + 1 }

end Sys2Proof.Machine
end

