-- ==== Sys2Proof/Machine/Placing.lean ====
section
/-! DEFINITION. Placing an instruction where the next step takes it: a word on the command port, or a line item before
the transmit engine. -/

namespace Sys2Proof.Machine

/-- Pins that offer `w` in this tick with `rst = 0`, the buttons as the stream has them, or released past its end. -/
def offering (w : Word) : List Inputs → List Inputs
  | [] => [{ rst := false, cmdValid := true, cmd := w, btnA := true, btnB := true }]
  | i :: rest => { i with rst := false, cmdValid := true, cmd := w } :: rest

/-- Pins that offer nothing in this tick with `rst = 0`. -/
def quiet : List Inputs → List Inputs
  | [] => [{ rst := false, cmdValid := false, cmd := 0, btnA := true, btnB := true }]
  | i :: rest => { i with rst := false, cmdValid := false } :: rest

/-- The stream of pin samples that the state holds. -/
def envStream : Env → List Inputs
  | .port stream => stream
  | .reference _ stream => stream
  | .script _ => []

/-- `w` is offered on the command port in this tick and will be accepted: no fault, sequencer idle, `rst = 0`. -/
def placeCommand (s : State) (w : Word) : State :=
  { s with env := .port (offering w (envStream s.env)), seq := .sidle, fault := false, cause := .none, info := 0 }

/-- The engine is in the last tick of a word's bit whose next bit is `bit`, and no command is offered. -/
def placeSymbol (s : State) (bit : Bool) : State :=
  { s with
    env := .port (quiet (envStream s.env))
    engine := { s.engine with
      eng := .shift, ph := bitTicks s.par - 1, bitCnt := 2, sh := if bit then 0x40000000 else 0 } }

/-- The engine is in the last tick of a word's last bit, the queue is empty, and no command is offered. -/
def placeGap (s : State) : State :=
  { s with
    env := .port (quiet (envStream s.env))
    txq := []
    engine := { s.engine with eng := .shift, ph := bitTicks s.par - 1, bitCnt := 1 } }

/-- The instruction of `nbits` bits `w`, numbered as the opcode table numbers them, where the next step takes it: a
line item before the engine, a word on the command port (assumption 14). -/
def placeTableWord (s : State) (nbits w : Nat) : State :=
  match decodeTableWord nbits w with
  | some .sym0 => placeSymbol s false
  | some .sym1 => placeSymbol s true
  | some .reset => placeGap s
  | _ => placeCommand s (BitVec.ofNat 32 w)

end Sys2Proof.Machine
end

