-- ==== Sys2Proof/Machine/ColorEncoder.lean ====
section
/-! DEFINITION. `ENC` (40_color_encoder.md). -/

namespace Sys2Proof.Machine

/-- `ENC r, g, b` (R122): responds with `encode(r, g, b)`. -/
def execEnc (r g b : Channel) (s : State) : Host.Outcome State Fault Refusal :=
  .next (respond (s.advance true) (wireWord r g b))

end Sys2Proof.Machine
end

