-- ==== Sys2Proof/Machine/FrameBuffer.lean ====
section
/-! DEFINITION. `CLR`, `COL`, `PLOT`, `PUTI` and `RDPX` (42_frame_buffer_ops.md). -/

namespace Sys2Proof.Machine

/-- `CLR` (R141): all 25 entries to zero in one tick. -/
def execClr (s : State) : Host.Outcome State Fault Refusal :=
  .next { s.advance true with fb := Vector.replicate nLed 0 }

/-- `COL r, g, b` (R142): `COLOR' <- r ++ g ++ b`. -/
def execCol (r g b : Channel) (s : State) : Host.Outcome State Fault Refusal :=
  .next { s.advance true with color := rgb r g b }

/-- `PLOT x, y` (R143): stores `COLOR` at `physicalIndex(x, y)`; a coordinate above 4 raises `BAD_INDEX`. -/
def execPlot (x y : Coord) (s : State) : Host.Outcome State Fault Refusal :=
  if badCoords x y then .next (raiseFault s .badIndex (encode (.plot x y)))
  else .next (fbWrite (s.advance true) (physicalIndex x.toNat y.toNat) s.color)

/-- `PUTI idx` (R144): stores `COLOR` at `idx`; an index above 24 raises `BAD_INDEX`. -/
def execPuti (idx : PixelIndex) (s : State) : Host.Outcome State Fault Refusal :=
  if badIndex idx then .next (raiseFault s .badIndex (encode (.puti idx)))
  else .next (fbWrite (s.advance true) idx.toNat s.color)

/-- `RDPX idx` (R145): responds with `FB[idx]` of `S(n)`; an index above 24 raises `BAD_INDEX`. -/
def execRdpx (idx : PixelIndex) (s : State) : Host.Outcome State Fault Refusal :=
  if badIndex idx then .next (raiseFault s .badIndex (encode (.rdpx idx)))
  else .next (respond (s.advance true) ((fbRead s idx.toNat).setWidth 32))

end Sys2Proof.Machine
end

