-- ==== Sys2Proof/Machine/Line.lean ====
section
/-! DEFINITION. The items of the transmit engine (30_encoding.md R101 to R103): each meaning is the tick in which the
engine begins the item, if it stands where one can begin; the ticks that follow put it on `dout`. -/

namespace Sys2Proof.Machine

/-- The engine begins the symbol of a data bit at the end of a bit (R101, R170). -/
def symbolTick (s : State) (bit : Bool) : State :=
  itemTick s (atBitEnd s.par s.engine) (beginSymbol s.engine bit, s.txq)

/-- `SYM0` (R101): a short high pulse, then a long low one. -/
def execSym0 (s : State) : Host.Outcome State Fault Refusal := .next (symbolTick s false)

/-- `SYM1` (R101): a long high pulse, then a short low one. -/
def execSym1 (s : State) : Host.Outcome State Fault Refusal := .next (symbolTick s true)

/-- `RESET` (R101, R172): the line goes low for `T_RESET` ticks after the end of a word. -/
def execReset (s : State) : Host.Outcome State Fault Refusal :=
  .next (itemTick s (atWordEnd s.par s.engine) (beginGap s.engine, s.txq))

/-- The queue after the engine took `w`: its oldest word is gone if it was `w` (R163). -/
def afterTaking (w : Word) (q : List Word) : List Word := if q.head? = some w then q.tail else q

/-- A WireWord (R102, R168, R171): at the end of a word the engine loads it and sends its top 24 bits. -/
def execWireword (g r b : Channel) (s : State) : Host.Outcome State Fault Refusal :=
  .next (itemTick s (atWordEnd s.par s.engine)
    (loadWord s.engine (wireWord r g b), afterTaking (wireWord r g b) s.txq))

end Sys2Proof.Machine
end

