-- ==== Sys2Proof/Machine/Mapper.lean ====
section
/-! DEFINITION. `MAP` (41_serpentine_mapper.md). -/

namespace Sys2Proof.Machine

/-- `MAP x, y` (R133): responds with `physicalIndex(x, y)`; a coordinate above 4 raises `BAD_INDEX`. -/
def execMap (x y : Coord) (s : State) : Host.Outcome State Fault Refusal :=
  if badCoords x y then .next (raiseFault s .badIndex (encode (.map x y)))
  else .next (respond (s.advance true) (BitVec.ofNat 32 (physicalIndex x.toNat y.toNat)))

end Sys2Proof.Machine
end

