-- ==== Sys2Proof/Machine/Misc.lean ====
section
/-! DEFINITION. `NOP` and `TIME` (45_time_and_misc.md). -/

namespace Sys2Proof.Machine

/-- `NOP` (R233): writes no register. -/
def execNop (s : State) : Host.Outcome State Fault Refusal := .next (s.advance true)

/-- `TIME` (R232): responds with `TIME_MS` of `S(n)`. -/
def execTime (s : State) : Host.Outcome State Fault Refusal := .next (respond (s.advance true) s.timeMs)

end Sys2Proof.Machine
end

