-- ==== Sys2Proof/Machine/TxTake.lean ====
section
/-! DEFINITION. `TX` (43_transmitter.md R161) and `TAKE` (44_debounce_capture.md R210, R211). -/

namespace Sys2Proof.Machine

/-- `TX` (R161): `SEQ' <- SWAIT`; the sequencer and the engine carry the frame out in the ticks that follow. -/
def execTx (s : State) : Host.Outcome State Fault Refusal := .next { s.advance true with seq := .swait }

/-- `TAKE b` (R210): responds with `PENDING[b]` of `S(n)` and clears it, unless an edge is accepted in the same tick,
which sets it (R211). -/
def execTake (b : Button) (s : State) : Host.Outcome State Fault Refusal :=
  .next (setPending (respond (s.advance true) (flagWord (s.cap b).pending)) b (s.accepts b))

end Sys2Proof.Machine
end

