-- ==== Sys2Proof/Machine/Dispatch.lean ====
section
/-! DEFINITION. The meaning of each instruction: for a command, the tick in which it is accepted (30_encoding.md R92);
for an item of the transmit engine, the tick in which the engine begins it. -/

namespace Sys2Proof.Machine

def exec (i : Instr) (s : State) : Host.Outcome State Fault Refusal :=
  match i with
  | .nop => Sys2Proof.Machine.execNop s
  | .enc r g b => Sys2Proof.Machine.execEnc r g b s
  | .map x y => Sys2Proof.Machine.execMap x y s
  | .clr => Sys2Proof.Machine.execClr s
  | .col r g b => Sys2Proof.Machine.execCol r g b s
  | .plot x y => Sys2Proof.Machine.execPlot x y s
  | .puti idx => Sys2Proof.Machine.execPuti idx s
  | .rdpx idx => Sys2Proof.Machine.execRdpx idx s
  | .tx => Sys2Proof.Machine.execTx s
  | .take btn => Sys2Proof.Machine.execTake btn s
  | .time => Sys2Proof.Machine.execTime s
  | .sym0 => Sys2Proof.Machine.execSym0 s
  | .sym1 => Sys2Proof.Machine.execSym1 s
  | .reset => Sys2Proof.Machine.execReset s
  | .wireword g r b => Sys2Proof.Machine.execWireword g r b s

end Sys2Proof.Machine
end

