-- ==== Sys2Proof/Machine/Tick.lean ====
section
/-! DEFINITION. One tick of the block and its surroundings (00_scope.md R11). -/

namespace Sys2Proof.Machine

/-- What the block does with the word accepted in this tick (R92, R94): a command executes, an illegal word faults. -/
def runWord (s : State) (w : Word) : Host.Outcome State Fault Refusal :=
  match decode w with
  | .ok i => exec i s
  | .error _ => .next (illegalTick s w)

/-- The tick of a state whose parameters are legal and whose outside does not stop: reset overrides all (R300); an
accepted word runs (R92); otherwise the units step by themselves (R234). -/
def tickOf (s : State) : Host.Outcome State Fault Refusal :=
  if s.turn.rst then .next (resetTick s)
  else
    match s.acceptedWord with
    | some w => runWord s w
    | none => .next (idleTick s)

/-- The answer of a host program that stops. -/
def stopped : Fault ⊕ Refusal → Host.Outcome State Fault Refusal
  | .inl f => .fault f
  | .inr r => .refused r

/-- A tick, refused where the parameters are none of an IALED's (R10, ID14) and stopped where a host program stops. -/
def tickChecked (s : State) : Host.Outcome State Fault Refusal :=
  if paramsOk s.par then
    match s.turn.stop with
    | some why => stopped why
    | none => tickOf s
  else .refused .badParameters

end Sys2Proof.Machine
end

