-- ==== Sys2Proof/Machine/Step.lean ====
section
/-! DEFINITION. The step of the machine, one tick, and where the host places an instruction. -/

namespace Sys2Proof.Machine

/-- One step is one tick (R11). -/
def step (s : State) : Host.Outcome State Fault Refusal := tickChecked s

/-- `s` with the instruction of `nbits` bits `w` placed where `step` takes its next one. -/
def State.withFetchWord (s : State) (nbits w : Nat) : State := placeTableWord s nbits w

end Sys2Proof.Machine
end

