-- ==== Sys2Proof/Safety.lean ====
section
/-! DEFINITION. What the claims are stated in: answering with a next state, runs of ticks without reset, the invariant
of 10_state.md R36, and the invariant that the transmitter never runs dry inside a frame (43_transmitter.md R178). -/

namespace Sys2Proof.Machine

/-- The outcome is a next state that has `P`. -/
def Answers (o : Host.Outcome State Fault Refusal) (P : State → Prop) : Prop := ∃ t, o = .next t ∧ P t

/-- `u` is the state `k` ticks after `s`. -/
def After (k : Nat) (s u : State) : Prop := Sys2Proof.core.run k s = .next u

/-- `rst` is 0 in each of the `k` ticks that start in `s`. -/
def NoReset (k : Nat) (s : State) : Prop := ∀ j, j < k → ∀ u, After j s u → u.turn.rst = false

/-- A capture unit within its bounds: a chain of `SYNC_STAGES` flops, `PENDING` only after an accepted edge (R36 item
6), and a time of `TIME_W` bits. -/
structure CaptureInv (p : Params) (c : Capture) : Prop where
  sync : c.sync.length = p.syncStages
  pending : c.pending = true → c.latV = true
  lat : c.lat.toNat < 2 ^ p.timeW

/-- The transmit engine within its bounds (R36 items 3 and 4). -/
structure EngineInv (p : Params) (e : Engine) : Prop where
  shift : e.eng = .shift → 1 ≤ e.bitCnt ∧ e.bitCnt ≤ 24 ∧ e.ph ≤ bitTicks p - 1
  gap : e.eng = .gap → e.gapCnt ≤ p.tReset - 1 ∧ e.bitCnt = 0

/-- The invariants of R36 that speak of one state, with the bounds of R33, the padding of R102, the fault only with an
idle sequencer of R184, and `TX_PRESENT` false only in a faulted block (R182). -/
structure Inv (s : State) : Prop where
  params : paramsOk s.par = true
  sidx : s.seq = .spush → s.sidx ≤ 24
  queue : s.txq.length ≤ s.par.txqDepth
  padding : ∀ w ∈ s.txq, w &&& 0xFF = 0
  engine : EngineInv s.par s.engine
  capA : CaptureInv s.par s.capA
  capB : CaptureInv s.par s.capB
  noFault : s.fault = false → s.cause = .none ∧ s.info = 0
  faulted : s.fault = true → s.cause ≠ .none ∧ s.seq = .sidle
  presc : s.presc ≤ s.par.ticksPerMs - 1
  time : s.timeMs.toNat < 2 ^ s.par.timeW
  present : s.par.txPresent = false → s.fault = true

/-- While the sequencer pushes a frame (R178): the engine waits for the frame's first word, or a word is on the wire
and the next one waits in the queue, unless the word on the wire has only just begun. -/
structure Supplied (s : State) : Prop where
  notGap : s.seq = .spush → s.engine.eng ≠ .gap
  first : s.seq = .spush → s.engine.eng = .idle → s.sidx = s.txq.length ∧ s.txq.length ≤ 1
  next : s.seq = .spush → s.engine.eng = .shift → s.txq ≠ [] ∨ (s.engine.ph = 0 ∧ s.engine.bitCnt = 24)

/-- The block without a transmitter (R182, R275): faulted with cause 1 and at rest. -/
structure Absent (s : State) : Prop where
  absent : s.par.txPresent = false
  faulted : s.fault = true
  cause : s.cause = .txUnavailable
  sequencer : s.seq = .sidle
  queue : s.txq = []
  engine : s.engine.eng ≠ .shift

/-- The commands that return a value (R93, column "returns"). -/
def returnsValue : Instr → Bool
  | .enc .. | .map .. | .rdpx .. | .take .. | .time => true
  | _ => false

end Sys2Proof.Machine
end

