-- ==== Sys2Proof/Certificates/Slice0/Obligations.lean ====
section
/-! DEFINITION. The statements for the provers, from the numbered rules of the spec. -/

open Sys2Proof Sys2Proof.Machine

/-! ## Encodings (30_encoding.md) -/

/-- R90, R93: each of the eleven commands, with every operand at every value its field admits, is encoded as a word that
decodes to it. -/
def Obligations.EveryCommandDecodesFromItsWord : Prop :=
  ∀ i : Instr, i.isCommand = true → decode (encode i) = .ok i

/-- R94, R95: a word that decodes is a command's own word, so no bit of it is ignored. -/
def Obligations.DecodedWordIsTheEncoding : Prop :=
  ∀ (w : Word) (i : Instr), decode w = .ok i → i.isCommand = true ∧ encode i = w

/-- R93: a word is the command of a row iff `w and mask = match`. -/
def Obligations.DecodeFollowsMaskAndMatch : Prop :=
  ∀ (w : Word) (i : Instr), i.isCommand = true →
    (w &&& tableMask i = tableMatch i ↔ ∃ j, decode w = .ok j ∧ tableMask j = tableMask i ∧ tableMatch j = tableMatch i)

/-- R94: the illegal words are those with `op` in 0xB to 0xF, those with bits `[27:24]` not zero, and those with a
must-be-zero bit of the operand's format not zero. -/
def Obligations.IllegalWordsAreRejected : Prop :=
  ∀ w : Word, (∃ e, decode w = .error e) ↔
    (0xB ≤ w.toNat / 2 ^ 28 ∨ w.toNat / 2 ^ 24 % 16 ≠ 0 ∨
     (w.toNat / 2 ^ 28 ∈ [0x0, 0x3, 0x8, 0xA] ∧ w.toNat % 2 ^ 24 ≠ 0) ∨
     (w.toNat / 2 ^ 28 ∈ [0x2, 0x5] ∧ w.toNat % 2 ^ 24 / 2 ^ 6 ≠ 0) ∨
     (w.toNat / 2 ^ 28 ∈ [0x6, 0x7] ∧ w.toNat % 2 ^ 24 / 2 ^ 5 ≠ 0) ∨
     (w.toNat / 2 ^ 28 = 0x9 ∧ w.toNat % 2 ^ 24 / 2 ≠ 0))

/-- R102: a WireWord is Green, Red, Blue from the top byte down over a zero byte, and the engine's decoder reads back
exactly the words of that form. That the engine has a decoder is the model's choice (DESIGN CHOICE, log entry 14): in
R168 it loads whatever word it pops. -/
def Obligations.WireWordLayoutAndDecoding : Prop :=
  (∀ g r b : Channel,
    (encode (.wireword g r b)).toNat = g.toNat * 2 ^ 24 + r.toNat * 2 ^ 16 + b.toNat * 2 ^ 8 ∧
    decodeWire (encode (.wireword g r b)) = some (.wireword g r b)) ∧
  (∀ (w : Word) (i : Instr), decodeWire w = some i → encode i = w) ∧
  (∀ w : Word, decodeWire w = none ↔ w.toNat % 2 ^ 8 ≠ 0)

/-- Words written out from the encodings of the spec (95_test_vectors.md T1 to T4, P1; R101) decode to the instructions
they stand for, and words it calls illegal are rejected. How `decodeTableWord` numbers the patterns of 25 and 2000 bits
is the model's choice (log entry 14). -/
def Obligations.WrittenOutWordsDecode : Prop :=
  decode 0x00000000 = .ok .nop ∧ decode 0x1012A5F0 = .ok (.enc 0x12 0xA5 0xF0) ∧
  decode 0x20000019 = .ok (.map 1 3) ∧ decode 0x30000000 = .ok .clr ∧
  decode 0x407F0040 = .ok (.col 0x7F 0x00 0x40) ∧ decode 0x50000024 = .ok (.plot 4 4) ∧
  decode 0x60000018 = .ok (.puti 24) ∧ decode 0x70000006 = .ok (.rdpx 6) ∧ decode 0x80000000 = .ok .tx ∧
  decode 0x90000001 = .ok (.take .buttonB) ∧ decode 0xA0000000 = .ok .time ∧
  decodeWire 0xA512F000 = some (.wireword 0xA5 0x12 0xF0) ∧
  decodeTableWord 25 0b1111111100000000000000000 = some .sym0 ∧
  decodeTableWord 25 0b1111111111111111100000000 = some .sym1 ∧ decodeTableWord 2000 0 = some .reset ∧
  decode 0xB0000000 = .error .unusedOpcode ∧ decode 0x01000000 = .error .reservedNibble ∧
  decode 0x50000407 = .error .operandBits

/-! ## The step -/

/-- R234, R278, R291: with legal parameters, and no host program at a stop, every tick has a next state. R10, R276,
R100: a step is refused where the parameters are illegal, and stops under a host program where it reaches `RENDER d`
with `d` above 9, which is refused, or a response it does not expect; no other host stops, and no `RENDER d` with `d` up
to 9 is refused. That every step checks the parameters, and what a failed `.expect` does, are the model's choices (log
entries 8 and 15). -/
def Obligations.EveryTickHasANextState : Prop :=
  ∀ s : State,
    (paramsOk s.par = false → step s = .refused .badParameters) ∧
    (paramsOk s.par = true → s.turn.stop = none → Answers (step s) (fun _ => True)) ∧
    ((∀ prog, s.env ≠ .script prog) → s.turn.stop = none) ∧
    (∀ prog rest d, paramsOk s.par = true → s.env = .script prog → prog.rest = .render d :: rest → 9 < d →
      step s = .refused (.renderDigit d)) ∧
    (∀ prog rest v, paramsOk s.par = true → s.env = .script prog → prog.rest = .expect v :: rest →
      ¬(s.rspV = true ∧ s.rsp = v) → step s = .fault (.expectation v)) ∧
    (∀ d, step s = .refused (.renderDigit d) → 9 < d)

/-- R92: where a word is accepted and decodes to `i`, the tick is the meaning of `i`. -/
def Obligations.StepRunsTheAcceptedCommand : Prop :=
  ∀ (s : State) (w : Word) (i : Instr), paramsOk s.par = true → s.turn.stop = none →
    s.acceptedWord = some w → decode w = .ok i → step s = exec i s

/-- R94, R273, R272: an accepted illegal word sets `FAULT`, `CAUSE` 3 and `INFO` to the word, gives no response, and
changes no register that the units stepping by themselves do not. -/
def Obligations.IllegalWordFaultsTheBlock : Prop :=
  ∀ (s : State) (w : Word) (e : DecodeError), paramsOk s.par = true → s.turn.stop = none →
    s.acceptedWord = some w → decode w = .error e →
    Answers (step s) fun t =>
      t.fault = true ∧ causeCode t.cause = 3 ∧ t.info = w ∧ t.rspV = false ∧
      t.fb = s.fb ∧ t.color = s.color ∧ t.rsp = s.rsp ∧
      t = { s.advance true with fault := true, cause := .illegalCmd, info := w }

/-- R92: with `cmd_ready = 0` neither `cmd_valid` nor `cmd` has any effect, and with `cmd_valid = 0` the value on `cmd`
has none; `cmd_ready` does not depend on either. -/
def Obligations.UnacceptedOfferHasNoEffect : Prop :=
  ∀ (s : State) (i : Inputs) (rest : List Inputs) (v : Bool) (c : Word),
    s.env = .port (i :: rest) →
    let s' := { s with env := .port ({ i with cmdValid := v, cmd := c } :: rest) }
    s'.cmdReady = s.cmdReady ∧
    (s.cmdReady = false → step s' = step s) ∧
    (i.cmdValid = false → v = false → step s' = step s)

/-- R39, R92: `cmd_ready` is 1 iff the sequencer is idle, no fault stands and `rst = 0`, and a command is accepted iff
it is offered while `cmd_ready = 1`. -/
def Obligations.AcceptanceRule : Prop :=
  (∀ s : State, s.cmdReady = true ↔ (s.seq = .sidle ∧ s.fault = false ∧ s.turn.rst = false)) ∧
  (∀ (s : State) (i : Inputs) (rest : List Inputs), s.env = .port (i :: rest) →
    ∀ w : Word, s.acceptedWord = some w ↔
      (i.cmdValid = true ∧ i.cmd = w ∧ s.seq = .sidle ∧ s.fault = false ∧ i.rst = false))

/-- R300, R35: in a tick with `rst = 1` no command is accepted, and it leads to the reset state whatever the state and
the other inputs are. -/
def Obligations.ResetOverridesAll : Prop :=
  ∀ s : State, paramsOk s.par = true → s.turn.stop = none → s.turn.rst = true →
    s.cmdReady = false ∧ s.acceptedWord = none ∧
    Answers (step s) fun t =>
      t.fb = Vector.replicate 25 0 ∧ t.color = 0 ∧ t.seq = .sidle ∧ t.sidx = 0 ∧ t.txq = [] ∧
      t.engine = { eng := .gap, sh := 0, bitCnt := 0, ph := 0, gapCnt := 0 } ∧ t.presc = 0 ∧ t.timeMs = 0 ∧
      t.capA = { sync := List.replicate s.par.syncStages true, prev := true, pending := false, latV := false, lat := 0 } ∧
      t.capB = t.capA ∧ t.fault = !s.par.txPresent ∧ causeCode t.cause = (if s.par.txPresent then 0 else 1) ∧
      t.info = 0 ∧ t.rspV = false ∧ t.rsp = 0 ∧ t.par = s.par

/-- R301, R35: the values of every register in the reset state, and the pins in it. -/
def Obligations.ResetValues : Prop :=
  ∀ p : Params, let s := State.resetOf p
    s.fb = Vector.replicate 25 0 ∧ s.color = 0 ∧ s.seq = .sidle ∧ s.sidx = 0 ∧ s.txq = [] ∧
    s.engine = { eng := .gap, sh := 0, bitCnt := 0, ph := 0, gapCnt := 0 } ∧ s.presc = 0 ∧ s.timeMs = 0 ∧
    s.capA = { sync := List.replicate p.syncStages true, prev := true, pending := false, latV := false, lat := 0 } ∧
    s.capB = s.capA ∧ s.fault = !p.txPresent ∧ causeCode s.cause = (if p.txPresent then 0 else 1) ∧ s.info = 0 ∧
    s.rspV = false ∧ s.rsp = 0 ∧ s.dout = false ∧ s.readyAt false = p.txPresent

/-! ## The commands -/

/-- R234: the units that step by themselves leave the frame buffer, `COLOR`, the fault registers and `RSP` as they are;
this and the equations below are the frames of the commands. -/
def Obligations.UnitsLeaveCommandRegisters : Prop :=
  ∀ (s : State) (acc : Bool), (s.advance acc).fb = s.fb ∧ (s.advance acc).color = s.color ∧
    (s.advance acc).fault = s.fault ∧ (s.advance acc).cause = s.cause ∧ (s.advance acc).info = s.info ∧
    (s.advance acc).rsp = s.rsp ∧ (s.advance acc).rspV = false ∧ (s.advance acc).par = s.par

/-- R233: `NOP` writes no register, and a tick in which it is accepted is a tick with no command. -/
def Obligations.NopWritesNothing : Prop :=
  (∀ s : State, exec .nop s = .next (s.advance true)) ∧
  (∀ (s : State) (i : Inputs) (rest : List Inputs), paramsOk s.par = true → s.env = .port (i :: rest) →
    i.rst = false → i.cmdValid = true → i.cmd = 0 → step s = .next (s.advance false))

/-- R232: `TIME` responds with `TIME_MS` of its own tick and writes nothing else. -/
def Obligations.TimeReadsTheClock : Prop :=
  ∀ s : State, exec .time s = .next { s.advance true with rspV := true, rsp := s.timeMs }

/-- R120, R121, R122: `ENC r, g, b` responds with Green, Red and Blue from the top byte down over a zero byte and writes
nothing else. -/
def Obligations.EncReturnsTheWireWord : Prop :=
  ∀ (r g b : Channel) (s : State), Answers (exec (.enc r g b) s) fun t =>
    t.rsp.toNat = g.toNat * 2 ^ 24 + r.toNat * 2 ^ 16 + b.toNat * 2 ^ 8 ∧
    t.rsp.extractLsb' 16 8 = r ∧ t.rsp.extractLsb' 24 8 = g ∧ t.rsp.extractLsb' 8 8 = b ∧
    t = { s.advance true with rspV := true, rsp := t.rsp }

/-- R130, R133: `MAP x, y` with coordinates up to 4 responds with `(4-y)*5 + (if 4-y is even then 4-x else x)` and
writes nothing else. -/
def Obligations.MapReturnsThePhysicalIndex : Prop :=
  ∀ (x y : Coord) (s : State), x.toNat ≤ 4 → y.toNat ≤ 4 →
    Answers (exec (.map x y) s) fun t =>
      t = { s.advance true with rspV := true, rsp := t.rsp } ∧
      t.rsp.toNat = (4 - y.toNat) * 5 + (if (4 - y.toNat) % 2 = 0 then 4 - x.toNat else x.toNat)

/-- R131: the transform is a bijection of the 25 logical positions onto 0 to 24, its inverse is the one the rule gives,
and its full table is the rule's, row `y = 0` first. -/
def Obligations.TransformIsABijection : Prop :=
  (∀ x < 5, ∀ y < 5, physicalIndex x y < 25) ∧
  (∀ i < 25, physicalIndex (if i / 5 % 2 = 0 then 4 - i % 5 else i % 5) (4 - i / 5) = i) ∧
  (∀ x < 5, ∀ y < 5, ∀ x' < 5, ∀ y' < 5, physicalIndex x y = physicalIndex x' y' → x = x' ∧ y = y') ∧
  ((List.range 5).map fun y => (List.range 5).map fun x => physicalIndex x y) =
    [[24, 23, 22, 21, 20], [15, 16, 17, 18, 19], [14, 13, 12, 11, 10], [5, 6, 7, 8, 9], [4, 3, 2, 1, 0]]

/-- R141: `CLR` sets all 25 entries to zero in one tick; `COLOR` is not changed, and nothing else is. -/
def Obligations.ClrClearsTheFrameBuffer : Prop :=
  ∀ s : State, Answers (exec .clr s) fun t =>
    (∀ i (h : i < 25), t.fb[i] = 0) ∧ t.color = s.color ∧ t = { s.advance true with fb := t.fb }

/-- R142, R15: `COL r, g, b` sets `COLOR` to `r ++ g ++ b`; `FB` is not changed, and nothing else is. -/
def Obligations.ColSetsTheColour : Prop :=
  ∀ (r g b : Channel) (s : State), Answers (exec (.col r g b) s) fun t =>
    t.color.toNat = r.toNat * 2 ^ 16 + g.toNat * 2 ^ 8 + b.toNat ∧ t.fb = s.fb ∧
    t = { s.advance true with color := t.color }

/-- R143: `PLOT x, y` with coordinates up to 4 stores `COLOR` at `physicalIndex(x, y)`; every other entry and every
register but the units' own keeps its value. -/
def Obligations.PlotStoresOnePixel : Prop :=
  ∀ (x y : Coord) (s : State), x.toNat ≤ 4 → y.toNat ≤ 4 →
    Answers (exec (.plot x y) s) fun t =>
      (∀ i (h : i < 25), t.fb[i] = if i = physicalIndex x.toNat y.toNat then s.color else s.fb[i]) ∧
      t = { s.advance true with fb := t.fb }

/-- R144: `PUTI idx` with an index up to 24 stores `COLOR` at `idx`, with no transform; every other entry and every
register but the units' own keeps its value. -/
def Obligations.PutiStoresOnePixel : Prop :=
  ∀ (idx : PixelIndex) (s : State), idx.toNat ≤ 24 →
    Answers (exec (.puti idx) s) fun t =>
      (∀ i (h : i < 25), t.fb[i] = if i = idx.toNat then s.color else s.fb[i]) ∧
      t = { s.advance true with fb := t.fb }

/-- R145: `RDPX idx` with an index up to 24 responds with the 24-bit entry, zero-extended; `FB` is not changed, and
nothing else is. -/
def Obligations.RdpxReturnsOnePixel : Prop :=
  ∀ (idx : PixelIndex) (s : State) (h : idx.toNat ≤ 24),
    Answers (exec (.rdpx idx) s) fun t =>
      t.rsp.toNat = (s.fb[idx.toNat]'(Nat.lt_succ_of_le h)).toNat ∧ t.fb = s.fb ∧
      t = { s.advance true with rspV := true, rsp := t.rsp }

/-- R274, R272: `MAP` and `PLOT` with a coordinate above 4, `PUTI` and `RDPX` with an index above 24, set `FAULT`,
`CAUSE` 2 and `INFO` to the command word, give no response, and change no register that the units stepping by themselves
do not. -/
def Obligations.BadIndexFaultsTheBlock : Prop :=
  ∀ (i : Instr) (s : State),
    (∃ x y : Coord, (4 < x.toNat ∨ 4 < y.toNat) ∧ (i = .map x y ∨ i = .plot x y)) ∨
    (∃ idx : PixelIndex, 24 < idx.toNat ∧ (i = .puti idx ∨ i = .rdpx idx)) →
    Answers (exec i s) fun t =>
      t.fault = true ∧ causeCode t.cause = 2 ∧ t.info = encode i ∧ t.rspV = false ∧
      t.fb = s.fb ∧ t.color = s.color ∧ t.rsp = s.rsp ∧
      t = { s.advance true with fault := true, cause := .badIndex, info := encode i }

/-- R161: `TX` sets `SEQ` to `SWAIT` and writes nothing else, and from the next tick `cmd_ready = 0`. -/
def Obligations.TxStartsTheSequencer : Prop :=
  ∀ s : State, Answers (exec .tx s) fun t =>
    t = { s.advance true with seq := .swait } ∧ ∀ rst, t.readyAt rst = false

/-- R210, R211: `TAKE b` responds with `PENDING[b]` of its own tick; after it `PENDING[b]` is 1 iff an edge of `b` was
accepted in the tick. `LAT`, `LATV`, the synchronizer and the other button are left to the units, and nothing else is
written. -/
def Obligations.TakeReadsAndClears : Prop :=
  ∀ (b : Button) (s : State), Answers (exec (.take b) s) fun t =>
    t.rspV = true ∧ t.rsp = (if (s.cap b).pending then 1 else 0) ∧
    t.cap b = { (s.advance true).cap b with pending := s.accepts b } ∧
    (∀ b', b' ≠ b → t.cap b' = (s.advance true).cap b') ∧
    t = { s.advance true with rspV := true, rsp := t.rsp, capA := t.capA, capB := t.capB }

/-! ## The wire items -/

/-- R101, R170: at the end of a bit the engine begins `SYM0` or `SYM1`: the symbol's bit stands in `SH[31]` over the
other bits of `SH << 1`, `PH = 0`, `GAPCNT` stays, and `BITCNT` is one less inside a word with more bits to come and 1
otherwise; nothing but the engine differs from a tick in which it begins none. Elsewhere the tick is one in which the
engine goes on by itself. That `exec` of a line item is this tick, and what `BITCNT` and `SH` then are, is the model's
choice (DESIGN CHOICE, log entry 11). -/
def Obligations.SymbolsBeginAtTheEndOfABit : Prop :=
  ∀ (s : State) (bit : Bool),
    (atBitEnd s.par s.engine = true →
      Answers (exec (symbolOf bit) s) fun t =>
        t.engine.eng = .shift ∧ t.engine.sh.getLsbD 31 = bit ∧
        (∀ i < 31, t.engine.sh.getLsbD i = (s.engine.sh <<< 1).getLsbD i) ∧
        t.engine.bitCnt = (if s.engine.eng = .shift ∧ 1 < s.engine.bitCnt then s.engine.bitCnt - 1 else 1) ∧
        t.engine.ph = 0 ∧ t.engine.gapCnt = s.engine.gapCnt ∧
        t = { s.advance false with engine := t.engine, txq := s.txq ++ (seqStep s).push }) ∧
    (atBitEnd s.par s.engine = false → exec (symbolOf bit) s = .next (s.advance false))

/-- R101, R172: at the end of a word the engine begins `RESET`: `ENG = GAP` with `GAPCNT = 0`, the line low, and nothing
but the engine differs from a tick in which it begins none; elsewhere the tick is one in which the engine goes on by
itself. That `exec` of a line item is this tick is the model's choice (DESIGN CHOICE, log entry 11). -/
def Obligations.GapBeginsAtTheEndOfAWord : Prop :=
  ∀ s : State,
    (atWordEnd s.par s.engine = true →
      Answers (exec .reset s) fun t => t.engine.eng = .gap ∧ t.engine.gapCnt = 0 ∧ t.engine.bitCnt = 0 ∧
        t.engine.ph = 0 ∧ t.engine.sh = s.engine.sh <<< 1 ∧ t.dout = false ∧
        t = { s.advance false with engine := t.engine, txq := s.txq ++ (seqStep s).push }) ∧
    (atWordEnd s.par s.engine = false → exec .reset s = .next (s.advance false))

/-- R102, R168, R171: at the end of a word the engine loads a WireWord: it stands in `SH` with `BITCNT = 24` and `PH =
0`, `GAPCNT` stays, the queue loses it if it is its oldest word, and nothing else differs from a tick in which the
engine loads none; elsewhere the tick is one in which the engine goes on by itself. That `exec` of a line item is this
tick is the model's choice (DESIGN CHOICE, log entry 11). -/
def Obligations.WireWordLoadsAtTheEndOfAWord : Prop :=
  ∀ (g r b : Channel) (s : State),
    (atWordEnd s.par s.engine = true →
      Answers (exec (.wireword g r b) s) fun t => t.engine.eng = .shift ∧ t.engine.sh = encode (.wireword g r b) ∧
        t.engine.bitCnt = 24 ∧ t.engine.ph = 0 ∧
        t.engine.gapCnt = s.engine.gapCnt ∧ t = { s.advance false with engine := t.engine, txq := t.txq } ∧
        (∀ rest, s.txq = encode (.wireword g r b) :: rest → t.txq = rest ++ (seqStep s).push) ∧
        (s.txq.head? ≠ some (encode (.wireword g r b)) → t.txq = s.txq ++ (seqStep s).push)) ∧
    (atWordEnd s.par s.engine = false → exec (.wireword g r b) s = .next (s.advance false))

/-- R168, R170, R171, R172: where no command is accepted and the engine begins an item of its own, the tick is that
item's meaning. That `exec` of a line item is this tick is the model's choice (DESIGN CHOICE, log entry 11). -/
def Obligations.EngineBeginsTheDecodedItem : Prop :=
  ∀ (s : State) (i : Instr), paramsOk s.par = true → s.turn.stop = none → s.turn.rst = false →
    s.acceptedWord = none → engineItem s.par s.engine s.txq = some i → step s = exec i s

/-- R101, R164: in the `T_BIT` ticks from the one in which the engine begins a symbol, `dout` is high for the first
`T_SHORT` of `SYM0` and the first `T_LONG` of `SYM1`, and low for the rest; `T_BIT` is `T_SHORT + T_LONG`. That `exec`
of a line item is this tick is the model's choice (DESIGN CHOICE, log entry 11). -/
def Obligations.SymbolWaveform : Prop :=
  (∀ p : Params, bitTicks p = p.tShort + p.tLong) ∧
  ∀ (bit : Bool) (s t u : State) (k : Nat), paramsOk s.par = true → atBitEnd s.par s.engine = true →
    exec (symbolOf bit) s = .next t → k < bitTicks s.par → NoReset k t → After k t u →
    u.dout = decide (k < if bit then s.par.tLong else s.par.tShort)

/-- R103, R176: from the tick in which the engine loads a WireWord its top 24 bits leave most significant first, one
symbol each, with no idle tick between them. That `exec` of a line item is this tick is the model's choice (DESIGN
CHOICE, log entry 11). -/
def Obligations.WireWordWaveform : Prop :=
  ∀ (g r b : Channel) (s t u : State) (j p : Nat), paramsOk s.par = true → atWordEnd s.par s.engine = true →
    exec (.wireword g r b) s = .next t → j < 24 → p < bitTicks s.par →
    NoReset (bitTicks s.par * j + p) t → After (bitTicks s.par * j + p) t u →
    u.dout = decide (p < if (encode (.wireword g r b)).getLsbD (31 - j) then s.par.tLong else s.par.tShort)

/-- R173, R174, R175: a gap lasts exactly `T_RESET` ticks with the line low, whatever the queue holds, and then the
engine is idle. That `exec` of a line item is this tick is the model's choice (DESIGN CHOICE, log entry 11). -/
def Obligations.GapLastsTReset : Prop :=
  ∀ (s t u : State) (k : Nat), paramsOk s.par = true → atWordEnd s.par s.engine = true →
    exec .reset s = .next t → NoReset k t → After k t u →
    (k < s.par.tReset → u.engine.eng = .gap ∧ u.engine.gapCnt = k ∧ u.dout = false) ∧
    (k = s.par.tReset → u.engine.eng = .idle ∧ u.engine.gapCnt = 0 ∧ u.dout = false)

/-- R176, R120: the waveform of one frame. The WireWord of a 24-bit colour is its Green byte (bits 15 to 8), its Red
byte (bits 23 to 16) and its Blue byte (bits 7 to 0) over a zero byte. `TX` was accepted with an idle engine and an
empty queue; from the fourth tick after its own, pixel by pixel, bit by bit, `dout` follows the frame buffer as it was
at acceptance, whatever the host does meanwhile; then the line is low for `T_RESET + 3` ticks. -/
def Obligations.FrameWaveform : Prop :=
  (∀ c : Colour, (wireOf c).toNat =
    c.toNat / 2 ^ 8 % 2 ^ 8 * 2 ^ 24 + c.toNat / 2 ^ 16 * 2 ^ 16 + c.toNat % 2 ^ 8 * 2 ^ 8) ∧
  ∀ s t : State, Inv s → s.seq = .sidle → s.engine.eng = .idle → s.txq = [] → exec .tx s = .next t →
    (∀ (i j p : Nat) (hi : i < 25) (u : State), j < 24 → p < bitTicks s.par →
      NoReset (3 + 24 * bitTicks s.par * i + bitTicks s.par * j + p) t →
      After (3 + 24 * bitTicks s.par * i + bitTicks s.par * j + p) t u →
      u.dout = decide (p < if (wireOf s.fb[i]).getLsbD (31 - j) then s.par.tLong else s.par.tShort)) ∧
    (∀ (q : Nat) (u : State), q < s.par.tReset + 3 → NoReset (3 + 600 * bitTicks s.par + q) t →
      After (3 + 600 * bitTicks s.par + q) t u → u.dout = false)

/-! ## The sequencer and the engine -/

/-- R165, R166, R167: one tick of the sequencer without reset; only an idle one lets a command in. What it reads is the
frame buffer's entry of that index. -/
def Obligations.SequencerRules : Prop :=
  (∀ (s : State) (i : Nat) (h : i < 25), fbRead s i = s.fb[i]) ∧
  ∀ s t : State, s.turn.rst = false → step s = .next t →
    (s.seq = .sidle → t.seq = (if s.acceptedWord = some (encode .tx) then .swait else .sidle)) ∧
    (s.seq ≠ .sidle → s.cmdReady = false) ∧
    (s.seq = .swait → s.engine.eng = .idle → s.txq = [] → t.seq = .spush ∧ t.sidx = 0) ∧
    (s.seq = .swait → ¬(s.engine.eng = .idle ∧ s.txq = []) → t.seq = .swait) ∧
    (s.seq = .spush → s.txq.length < s.par.txqDepth → s.sidx ≤ 24 →
      (∃ q, t.txq = q ++ [wireOf (fbRead s s.sidx)]) ∧ t.sidx = s.sidx + 1 ∧
      t.seq = (if s.sidx = 24 then .sidle else .spush)) ∧
    (s.seq = .spush → ¬ s.txq.length < s.par.txqDepth → t.seq = .spush ∧ t.sidx = s.sidx)

/-- R168 to R174: one tick of the engine without reset; where it takes a word, the queue's oldest one is gone. The last
tick of a bit is tick `T_SHORT + T_LONG - 1` of it; the engine stands at the end of a bit when idle or in a bit's last
tick, and at the end of a word when idle or in the last tick of a word's last bit. -/
def Obligations.EngineRules : Prop :=
  ∀ s t : State, s.turn.rst = false → step s = .next t →
    let e := s.engine
    let last := s.par.tShort + s.par.tLong - 1
    (atBitEnd s.par e = true ↔ e.eng = .idle ∨ (e.eng = .shift ∧ e.ph = last)) ∧
    (atWordEnd s.par e = true ↔ e.eng = .idle ∨ (e.eng = .shift ∧ e.ph = last ∧ e.bitCnt = 1)) ∧
    (e.eng ≠ .shift → s.dout = false) ∧
    (e.eng = .idle → s.txq = [] → t.engine = e) ∧
    (∀ w q, s.txq = w :: q → e.eng = .idle ∨ (e.eng = .shift ∧ e.ph = last ∧ e.bitCnt = 1) →
      t.engine = { e with eng := .shift, sh := w, bitCnt := 24, ph := 0 } ∧
      ∃ pushed, pushed.length ≤ 1 ∧ t.txq = q ++ pushed) ∧
    (e.eng = .shift → e.ph < last → t.engine = { e with ph := e.ph + 1 }) ∧
    (e.eng = .shift → e.ph = last → 1 < e.bitCnt →
      t.engine = { e with ph := 0, sh := e.sh <<< 1, bitCnt := e.bitCnt - 1 }) ∧
    (e.eng = .shift → e.ph = last → e.bitCnt = 1 → s.txq = [] →
      t.engine = { eng := .gap, sh := e.sh <<< 1, bitCnt := 0, ph := 0, gapCnt := 0 }) ∧
    (e.eng = .gap → e.gapCnt < s.par.tReset - 1 → t.engine = { e with gapCnt := e.gapCnt + 1 }) ∧
    (e.eng = .gap → e.gapCnt = s.par.tReset - 1 → t.engine = { e with eng := .idle, gapCnt := 0 })

/-- R163: the queue in one tick without reset: the engine pops the oldest word iff it is free to take one, the sequencer
pushes iff `count < TXQ_DEPTH`, both by the count of `S(n)`. -/
def Obligations.QueueRules : Prop :=
  ∀ s t : State, s.turn.rst = false → step s = .next t →
    t.txq = (if atWordEnd s.par s.engine then s.txq.tail else s.txq) ++
      (if s.seq = .spush ∧ s.txq.length < s.par.txqDepth then [wireOf (fbRead s s.sidx)] else [])

/-- R164, R36 item 9: `dout` is high iff a bit is being sent and its high part lasts. -/
def Obligations.DoutRule : Prop :=
  ∀ s : State, s.dout = true ↔
    (s.engine.eng = .shift ∧ s.engine.ph < if s.engine.sh.getLsbD 31 then s.par.tLong else s.par.tShort)

/-- R76: while a frame waits or is being queued the frame buffer does not change, whatever the host offers. -/
def Obligations.FrameBufferIsStableWhileQueueing : Prop :=
  ∀ s t : State, s.turn.rst = false → s.seq ≠ .sidle → step s = .next t → t.fb = s.fb ∧ t.color = s.color

/-- R178: that the transmitter never runs dry inside a frame is kept by every step; and while it is so and the sequencer
still has pixels to push, the end of a word finds another in the queue, and no gap begins. -/
def Obligations.NoUnderrun : Prop :=
  ∀ s t : State, Inv s → Supplied s → step s = .next t →
    Supplied t ∧
    (s.seq = .spush → s.turn.rst = false →
      (s.engine.eng = .shift → atWordEnd s.par s.engine = true → s.txq ≠ []) ∧ t.engine.eng ≠ .gap)

/-! ## Time and capture -/

/-- R231: one tick of the clock without reset; and `n` ticks after a reset `TIME_MS` is `(n div TICKS_PER_MS) mod
2^TIME_W`, whatever the host does. -/
def Obligations.TimerRule : Prop :=
  (∀ s t : State, s.turn.rst = false → step s = .next t →
    (s.presc = s.par.ticksPerMs - 1 → t.presc = 0 ∧ t.timeMs.toNat = (s.timeMs.toNat + 1) % 2 ^ s.par.timeW) ∧
    (s.presc ≠ s.par.ticksPerMs - 1 → t.presc = s.presc + 1 ∧ t.timeMs = s.timeMs)) ∧
  (∀ (s t u : State) (n : Nat), s.turn.rst = true → step s = .next t → NoReset n t → After n t u →
    u.timeMs.toNat = n / s.par.ticksPerMs % 2 ^ s.par.timeW ∧ u.presc = n % s.par.ticksPerMs)

/-- R202, R203, R34: one tick of either button's synchronizer without reset, for a chain of any length: the newest flop
takes the sample, each later one takes the one before it, and `PREV` takes the last. With two flops `SYNC1` takes the
sample, `SYNC2` takes `SYNC1` and `PREV` takes `SYNC2`. A falling-edge event is `PREV` 1 with the last flop 0. The
samples are those of the input stream. That the event reads the last flop of a chain of another length than two is the
model's reading (DEDUCED, log entry 10). -/
def Obligations.SynchronizerRule : Prop :=
  (∀ (s t : State) (b : Button), s.turn.rst = false → step s = .next t →
    (t.cap b).sync = (s.turn.btn b :: (s.cap b).sync).dropLast ∧
    (∀ last, (s.cap b).sync.getLast? = some last → (t.cap b).prev = last) ∧
    (∀ sync1 sync2, (s.cap b).sync = [sync1, sync2] →
      (t.cap b).sync = [s.turn.btn b, sync1] ∧ (t.cap b).prev = sync2)) ∧
  (∀ (c : Capture) (last : Bool), c.sync.getLast? = some last →
    (fall c = true ↔ (c.prev = true ∧ last = false))) ∧
  (∀ (s : State) (i : Inputs) (rest : List Inputs), s.env = .port (i :: rest) →
    s.turn.btn .buttonA = i.btnA ∧ s.turn.btn .buttonB = i.btnB)

/-- R203, R204, R205, R34: a button has a falling-edge event in a tick iff, with a chain of `k` flops, `k` at least 1,
and no reset between, its sample `k` ticks before was 0 and the one before that was 1; with two flops that is two ticks
before. A rising edge or a steady level gives none. For a chain of another length than two this is the model's reading:
the event reads the last flop (DEDUCED, log entry 10). -/
def Obligations.FallingEdgeLatency : Prop :=
  ∀ (s0 s1 u : State) (b : Button), 1 ≤ (s0.cap b).sync.length → step s0 = .next s1 → s0.turn.rst = false →
    NoReset (s0.cap b).sync.length s1 → After (s0.cap b).sync.length s1 u →
    fall (u.cap b) = (s0.turn.btn b && !s1.turn.btn b)

/-- R206, R207: the accept rule in a tick without reset: an edge is accepted iff nothing is pending and none was
accepted before or more than `DEBOUNCE_MS` have passed since; an accepted edge sets the flag, the time and the valid bit
together; a discarded one leaves no trace in them. -/
def Obligations.AcceptRule : Prop :=
  ∀ (s t : State) (b : Button), s.turn.rst = false → step s = .next t →
    (s.accepts b = true ↔ (fall (s.cap b) = true ∧ (s.cap b).pending = false ∧
      ((s.cap b).latV = false ∨
        s.par.debounceMs < (s.timeMs.toNat + 2 ^ 32 - (s.cap b).lat.toNat) % 2 ^ 32 % 2 ^ s.par.timeW))) ∧
    (s.accepts b = true → (t.cap b).pending = true ∧ (t.cap b).lat = s.timeMs ∧ (t.cap b).latV = true) ∧
    (s.accepts b = false → (t.cap b).lat = (s.cap b).lat ∧ (t.cap b).latV = (s.cap b).latV ∧
      ((t.cap b).pending = true → (s.cap b).pending = true))

/-- R206, R209: the window's boundary of each button at the default 200 ms, across the clock's wrap too: an edge 200 ms
after the last accepted one is discarded, one 201 ms after it is accepted. -/
def Obligations.WindowBoundary : Prop :=
  ∀ (s : State) (b : Button), s.par.debounceMs = 200 → s.par.timeW = 32 → (s.cap b).prev = true →
    synced (s.cap b) = false → (s.cap b).pending = false → (s.cap b).latV = true →
    (s.timeMs = (s.cap b).lat + 200 → s.accepts b = false) ∧
    (s.timeMs = (s.cap b).lat + 201 → s.accepts b = true)

/-- R208, R211, R72: after a tick without reset `PENDING[b]` is 1 if an edge of `b` was accepted, else 0 if `TAKE b`
was, else what it was; reset clears it. Nothing else writes it. -/
def Obligations.PendingHasOneSetterAndOneClearer : Prop :=
  ∀ (s t : State) (b : Button), step s = .next t →
    (s.turn.rst = false → (t.cap b).pending =
      (s.accepts b || ((s.cap b).pending && decide (s.acceptedWord ≠ some (encode (.take b)))))) ∧
    (s.turn.rst = true → (t.cap b).pending = false)

/-- R212: what one button's capture unit becomes does not depend on the other unit or the other button's samples. -/
def Obligations.ButtonsAreIndependent : Prop :=
  ∀ (s : State) (i : Inputs) (rest : List Inputs) (cap : Capture) (sample : Bool) (t t' : State),
    s.env = .port (i :: rest) → step s = .next t →
    (step { s with capB := cap, env := .port ({ i with btnB := sample } :: rest) } = .next t' → t'.capA = t.capA) ∧
    (step { s with capA := cap, env := .port ({ i with btnA := sample } :: rest) } = .next t' → t'.capB = t.capB)

/-! ## Registers and faults over every instruction -/

/-- R21, R22: only an accepted `CLR`, `PLOT` or `PUTI` or reset changes the frame buffer, and only an accepted `COL` or
reset changes `COLOR`. -/
def Obligations.WritersOfFrameBufferAndColour : Prop :=
  ∀ s t : State, s.turn.rst = false → step s = .next t →
    (t.fb ≠ s.fb → ∃ w i, s.acceptedWord = some w ∧ decode w = .ok i ∧
      (i = .clr ∨ (∃ x y, i = .plot x y) ∨ ∃ idx, i = .puti idx)) ∧
    (t.color ≠ s.color → ∃ w r g b, s.acceptedWord = some w ∧ decode w = .ok (.col r g b))

/-- R31, R96: `rsp_valid` is 1 exactly after a value-returning command that did not fault; otherwise `RSP` keeps its
value; reset clears both. -/
def Obligations.ResponseRule : Prop :=
  ∀ s t : State, step s = .next t →
    (s.turn.rst = false →
      (t.rspV = true ↔ ∃ w i, s.acceptedWord = some w ∧ decode w = .ok i ∧ returnsValue i = true ∧
        i.wellFormed = true) ∧
      (t.rspV = false → t.rsp = s.rsp)) ∧
    (s.turn.rst = true → t.rspV = false ∧ t.rsp = 0)

/-- R278, R272, R279: in the fault state, without reset, no command is accepted, the units step by themselves, the fault
registers and `FB`, `COLOR` and `RSP` keep their values, and the block stays faulted. -/
def Obligations.FaultIsSticky : Prop :=
  ∀ s : State, paramsOk s.par = true → s.turn.stop = none → s.fault = true → s.turn.rst = false →
    s.acceptedWord = none ∧
    Answers (step s) fun t => t = s.advance false ∧ t.fault = true ∧ t.cause = s.cause ∧ t.info = s.info ∧
      t.fb = s.fb ∧ t.color = s.color ∧ t.rsp = s.rsp ∧ t.rspV = false ∧ t.cmdReady = false

/-- R272, R273, R274: a fault arises only from a command accepted in the tick: an illegal word or an operand out of
range, the illegal word first, and `INFO` is that word. -/
def Obligations.FaultsComeFromAcceptedWords : Prop :=
  ∀ s t : State, s.turn.rst = false → s.fault = false → step s = .next t → t.fault = true →
    ∃ w, s.acceptedWord = some w ∧ t.info = w ∧
      ((∃ e, decode w = .error e ∧ t.cause = .illegalCmd) ∨
       (∃ i, decode w = .ok i ∧ i.wellFormed = false ∧ t.cause = .badIndex))

/-- R182, R275: with `TX_PRESENT` false every reset leaves the block faulted with cause 1 and at rest; every step,
resets included, keeps it so; and in such a state no command is accepted and the line is low. So from a reset on,
whatever the host does, no command is ever accepted and the line stays low. Without a reset nothing raises cause 1. -/
def Obligations.AbsentTransmitterNeverAccepts : Prop :=
  (∀ p : Params, p.txPresent = false → Absent (State.resetOf p)) ∧
  (∀ s t : State, s.par.txPresent = false → s.turn.rst = true → step s = .next t → Absent t) ∧
  (∀ s t : State, Absent s → step s = .next t → Absent t) ∧
  (∀ s : State, Absent s → s.cmdReady = false ∧ s.acceptedWord = none ∧ s.dout = false) ∧
  (∀ (s t u : State) (k : Nat), s.par.txPresent = false → s.turn.rst = true → step s = .next t → After k t u →
    u.fault = true ∧ u.cause = .txUnavailable ∧ u.cmdReady = false ∧ u.acceptedWord = none ∧ u.dout = false) ∧
  (∀ s t : State, s.turn.rst = false → step s = .next t → s.cause ≠ .txUnavailable → t.cause ≠ .txUnavailable)

/-! ## The invariant -/

/-- R36: the invariant holds after reset with any legal parameters, and the transmitter is supplied. -/
def Obligations.ResetMeetsTheInvariant : Prop :=
  ∀ p : Params, paramsOk p = true → Inv (State.resetOf p) ∧ Supplied (State.resetOf p)

/-- R36: every step keeps the invariant. -/
def Obligations.EveryStepKeepsTheInvariant : Prop :=
  ∀ s t : State, Inv s → step s = .next t → Inv t

/-! ## The reference host -/

/-- R243: scaling is truncating, never exceeds 255, is the identity at 256 and halves at 128. -/
def Obligations.ScalingTruncates : Prop :=
  ∀ (p : Params) (c : Channel), p.intensityQ8 ≤ 256 →
    (scale p c).toNat = c.toNat * p.intensityQ8 / 256 ∧
    (p.intensityQ8 = 256 → scale p c = c) ∧ (p.intensityQ8 = 128 → (scale p c).toNat = c.toNat / 2)

/-- R245, R244: after the commands of `render(d)` every position of the frame buffer shows the glyph: the scaled colour
where its bit is set, off elsewhere, whatever the frame buffer held, and the sequencer has been started. The scaled
colour is the scaled Red, Green and Blue bytes of the base colour in their places. -/
def Obligations.RenderShowsTheGlyph : Prop :=
  (∀ (p : Params) (g : Glyph), (scaledColour p g).toNat =
    (scale p (BitVec.ofNat 8 (g.base.toNat / 2 ^ 16))).toNat * 2 ^ 16 +
    (scale p (BitVec.ofNat 8 (g.base.toNat / 2 ^ 8 % 2 ^ 8))).toNat * 2 ^ 8 +
    (scale p (BitVec.ofNat 8 (g.base.toNat % 2 ^ 8))).toNat) ∧
  ∀ (p : Params) (font : Font) (d : Fin 10) (s : State),
    ∃ t, (render p font d).foldlM (m := Option)
        (fun u i => match exec i u with | .next v => some v | _ => none) s = some t ∧
      (∀ x y : Fin 5, fbRead t (physicalIndex x y) =
        if font[d].bitmap[y.val * 5 + x.val]'(by simp only [nLed]; omega) then scaledColour p font[d] else 0) ∧
      t.seq = .swait

/-- R250: the blink indicator toggles once iff at least `BLINK_MS` have passed, and takes `now` as its last time. -/
def Obligations.BlinkRule : Prop :=
  ∀ (p : Params) (h : RefHost) (now : Word),
    (p.blinkMs ≤ (now.toNat + 2 ^ 32 - h.blinkLast.toNat) % 2 ^ 32 % 2 ^ p.timeW →
      blinkTick p h now = { h with blinkLast := now, blinkLevel := !h.blinkLevel, ledStatus := !h.blinkLevel }) ∧
    (¬ p.blinkMs ≤ (now.toNat + 2 ^ 32 - h.blinkLast.toNat) % 2 ^ 32 % 2 ^ p.timeW → blinkTick p h now = h)

/-- R255, R256: with the response of `TIME` the host calls `tick` and goes on to `TAKE 0`; an event of A takes the digit
to `(DIGIT + 1) mod 10` and one of B to `(DIGIT + 9) mod 10`, and the host then renders the new digit before its next
question, which is `TAKE 1` after A and `TIME` after B; without an event it goes straight on. A tick without a response
leaves it as it is, and after a question is accepted it waits for that question's response. When it reads and offers is
the model's choice (log entry 12). -/
def Obligations.DispatchRule : Prop :=
  ∀ (p : Params) (h : RefHost) (rsp : Word),
    h.react p false rsp = h ∧
    (h.wait = .time → h.react p true rsp = { blinkTick p h rsp with todo := [.take .buttonA], wait := .none }) ∧
    (h.wait = .takeA → rsp.getLsbD 0 = true →
      (h.react p true rsp).digit.val = (h.digit.val + 1) % 10 ∧
      h.react p true rsp = { h with
        digit := (h.react p true rsp).digit
        todo := render p h.font (h.react p true rsp).digit ++ [.take .buttonB]
        wait := .none }) ∧
    (h.wait = .takeA → rsp.getLsbD 0 = false →
      h.react p true rsp = { h with todo := [.take .buttonB], wait := .none }) ∧
    (h.wait = .takeB → rsp.getLsbD 0 = true →
      (h.react p true rsp).digit.val = (h.digit.val + 9) % 10 ∧
      h.react p true rsp = { h with
        digit := (h.react p true rsp).digit
        todo := render p h.font (h.react p true rsp).digit ++ [.time]
        wait := .none }) ∧
    (h.wait = .takeB → rsp.getLsbD 0 = false → h.react p true rsp = { h with todo := [.time], wait := .none }) ∧
    (∀ rest, h.todo = .time :: rest → h.accepted = { h with todo := rest, wait := .time }) ∧
    (∀ rest, h.todo = .take .buttonA :: rest → h.accepted = { h with todo := rest, wait := .takeA }) ∧
    (∀ rest, h.todo = .take .buttonB :: rest → h.accepted = { h with todo := rest, wait := .takeB })
end

