-- ==== Sys2Proof/Laws/State.lean ====
section
/-! SUPPORT. One lemma per field per update of State, true by `rfl`, so that no proof unfolds a record update. -/

namespace Sys2Proof.Machine

/-! ## The constants of R9 -/

@[simp] theorem nLed_eq : nLed = 25 := rfl
@[simp] theorem nRow_eq : nRow = 5 := rfl
@[simp] theorem nCol_eq : nCol = 5 := rfl
@[simp] theorem nBtn_eq : nBtn = 2 := rfl

/-- The buttons are as many as `N_BTN`, each with an index of its own (R60). -/
theorem button_index_bijective : Function.Bijective Button.index := by
  constructor
  · intro a b h; cases a <;> cases b <;> first | rfl | cases h
  · intro i; match i with
    | 0 => exact ⟨.buttonA, rfl⟩
    | 1 => exact ⟨.buttonB, rfl⟩

variable (s : State)

/-! ## A tick of the units that step by themselves -/

@[simp] theorem advanceWith_fb (acc : Bool) (eng : Engine × List Word) : (s.advanceWith acc eng).fb = s.fb := rfl
@[simp] theorem advanceWith_color (acc : Bool) (eng : Engine × List Word) : (s.advanceWith acc eng).color = s.color := rfl
@[simp] theorem advanceWith_seq (acc : Bool) (eng : Engine × List Word) : (s.advanceWith acc eng).seq = (seqStep s).seq := rfl
@[simp] theorem advanceWith_sidx (acc : Bool) (eng : Engine × List Word) : (s.advanceWith acc eng).sidx = (seqStep s).sidx := rfl
@[simp] theorem advanceWith_txq (acc : Bool) (eng : Engine × List Word) : (s.advanceWith acc eng).txq = eng.2 ++ (seqStep s).push := rfl
@[simp] theorem advanceWith_engine (acc : Bool) (eng : Engine × List Word) : (s.advanceWith acc eng).engine = eng.1 := rfl
@[simp] theorem advanceWith_presc (acc : Bool) (eng : Engine × List Word) : (s.advanceWith acc eng).presc = prescStep s.par s.presc := rfl
@[simp] theorem advanceWith_timeMs (acc : Bool) (eng : Engine × List Word) : (s.advanceWith acc eng).timeMs = timeStep s.par s.presc s.timeMs := rfl
@[simp] theorem advanceWith_capA (acc : Bool) (eng : Engine × List Word) : (s.advanceWith acc eng).capA = captureStep s.par s.timeMs s.capA s.turn.btnA := rfl
@[simp] theorem advanceWith_capB (acc : Bool) (eng : Engine × List Word) : (s.advanceWith acc eng).capB = captureStep s.par s.timeMs s.capB s.turn.btnB := rfl
@[simp] theorem advanceWith_fault (acc : Bool) (eng : Engine × List Word) : (s.advanceWith acc eng).fault = s.fault := rfl
@[simp] theorem advanceWith_cause (acc : Bool) (eng : Engine × List Word) : (s.advanceWith acc eng).cause = s.cause := rfl
@[simp] theorem advanceWith_info (acc : Bool) (eng : Engine × List Word) : (s.advanceWith acc eng).info = s.info := rfl
@[simp] theorem advanceWith_rspV (acc : Bool) (eng : Engine × List Word) : (s.advanceWith acc eng).rspV = false := rfl
@[simp] theorem advanceWith_rsp (acc : Bool) (eng : Engine × List Word) : (s.advanceWith acc eng).rsp = s.rsp := rfl
@[simp] theorem advanceWith_par (acc : Bool) (eng : Engine × List Word) : (s.advanceWith acc eng).par = s.par := rfl
@[simp] theorem advanceWith_env (acc : Bool) (eng : Engine × List Word) : (s.advanceWith acc eng).env = if acc then s.turn.taken else s.turn.held := rfl
@[simp] theorem advanceWith_tick (acc : Bool) (eng : Engine × List Word) : (s.advanceWith acc eng).tick = s.tick + 1 := rfl

/-! ## The same with the engine's own step -/

@[simp] theorem advance_fb (acc : Bool) : (s.advance acc).fb = s.fb := rfl
@[simp] theorem advance_color (acc : Bool) : (s.advance acc).color = s.color := rfl
@[simp] theorem advance_seq (acc : Bool) : (s.advance acc).seq = (seqStep s).seq := rfl
@[simp] theorem advance_sidx (acc : Bool) : (s.advance acc).sidx = (seqStep s).sidx := rfl
@[simp] theorem advance_txq (acc : Bool) : (s.advance acc).txq = (engineStep s.par s.engine s.txq).2 ++ (seqStep s).push := rfl
@[simp] theorem advance_engine (acc : Bool) : (s.advance acc).engine = (engineStep s.par s.engine s.txq).1 := rfl
@[simp] theorem advance_presc (acc : Bool) : (s.advance acc).presc = prescStep s.par s.presc := rfl
@[simp] theorem advance_timeMs (acc : Bool) : (s.advance acc).timeMs = timeStep s.par s.presc s.timeMs := rfl
@[simp] theorem advance_capA (acc : Bool) : (s.advance acc).capA = captureStep s.par s.timeMs s.capA s.turn.btnA := rfl
@[simp] theorem advance_capB (acc : Bool) : (s.advance acc).capB = captureStep s.par s.timeMs s.capB s.turn.btnB := rfl
@[simp] theorem advance_fault (acc : Bool) : (s.advance acc).fault = s.fault := rfl
@[simp] theorem advance_cause (acc : Bool) : (s.advance acc).cause = s.cause := rfl
@[simp] theorem advance_info (acc : Bool) : (s.advance acc).info = s.info := rfl
@[simp] theorem advance_rspV (acc : Bool) : (s.advance acc).rspV = false := rfl
@[simp] theorem advance_rsp (acc : Bool) : (s.advance acc).rsp = s.rsp := rfl
@[simp] theorem advance_par (acc : Bool) : (s.advance acc).par = s.par := rfl
@[simp] theorem advance_env (acc : Bool) : (s.advance acc).env = if acc then s.turn.taken else s.turn.held := rfl
@[simp] theorem advance_tick (acc : Bool) : (s.advance acc).tick = s.tick + 1 := rfl

/-- Either capture unit of such a tick, by its button. -/
theorem advance_cap (acc : Bool) (b : Button) :
    (s.advance acc).cap b = captureStep s.par s.timeMs (s.cap b) (s.turn.btn b) := by cases b <;> rfl

/-! ## A response -/

@[simp] theorem respond_fb (v : Word) : (respond s v).fb = s.fb := rfl
@[simp] theorem respond_color (v : Word) : (respond s v).color = s.color := rfl
@[simp] theorem respond_seq (v : Word) : (respond s v).seq = s.seq := rfl
@[simp] theorem respond_sidx (v : Word) : (respond s v).sidx = s.sidx := rfl
@[simp] theorem respond_txq (v : Word) : (respond s v).txq = s.txq := rfl
@[simp] theorem respond_engine (v : Word) : (respond s v).engine = s.engine := rfl
@[simp] theorem respond_presc (v : Word) : (respond s v).presc = s.presc := rfl
@[simp] theorem respond_timeMs (v : Word) : (respond s v).timeMs = s.timeMs := rfl
@[simp] theorem respond_capA (v : Word) : (respond s v).capA = s.capA := rfl
@[simp] theorem respond_capB (v : Word) : (respond s v).capB = s.capB := rfl
@[simp] theorem respond_fault (v : Word) : (respond s v).fault = s.fault := rfl
@[simp] theorem respond_cause (v : Word) : (respond s v).cause = s.cause := rfl
@[simp] theorem respond_info (v : Word) : (respond s v).info = s.info := rfl
@[simp] theorem respond_rspV (v : Word) : (respond s v).rspV = true := rfl
@[simp] theorem respond_rsp (v : Word) : (respond s v).rsp = v := rfl
@[simp] theorem respond_par (v : Word) : (respond s v).par = s.par := rfl
@[simp] theorem respond_env (v : Word) : (respond s v).env = s.env := rfl
@[simp] theorem respond_tick (v : Word) : (respond s v).tick = s.tick := rfl

/-! ## A frame-buffer write -/

@[simp] theorem fbWrite_fb (i : Nat) (v : Colour) : (fbWrite s i v).fb = s.fb.setIfInBounds i v := rfl
@[simp] theorem fbWrite_color (i : Nat) (v : Colour) : (fbWrite s i v).color = s.color := rfl
@[simp] theorem fbWrite_seq (i : Nat) (v : Colour) : (fbWrite s i v).seq = s.seq := rfl
@[simp] theorem fbWrite_sidx (i : Nat) (v : Colour) : (fbWrite s i v).sidx = s.sidx := rfl
@[simp] theorem fbWrite_txq (i : Nat) (v : Colour) : (fbWrite s i v).txq = s.txq := rfl
@[simp] theorem fbWrite_engine (i : Nat) (v : Colour) : (fbWrite s i v).engine = s.engine := rfl
@[simp] theorem fbWrite_presc (i : Nat) (v : Colour) : (fbWrite s i v).presc = s.presc := rfl
@[simp] theorem fbWrite_timeMs (i : Nat) (v : Colour) : (fbWrite s i v).timeMs = s.timeMs := rfl
@[simp] theorem fbWrite_capA (i : Nat) (v : Colour) : (fbWrite s i v).capA = s.capA := rfl
@[simp] theorem fbWrite_capB (i : Nat) (v : Colour) : (fbWrite s i v).capB = s.capB := rfl
@[simp] theorem fbWrite_fault (i : Nat) (v : Colour) : (fbWrite s i v).fault = s.fault := rfl
@[simp] theorem fbWrite_cause (i : Nat) (v : Colour) : (fbWrite s i v).cause = s.cause := rfl
@[simp] theorem fbWrite_info (i : Nat) (v : Colour) : (fbWrite s i v).info = s.info := rfl
@[simp] theorem fbWrite_rspV (i : Nat) (v : Colour) : (fbWrite s i v).rspV = s.rspV := rfl
@[simp] theorem fbWrite_rsp (i : Nat) (v : Colour) : (fbWrite s i v).rsp = s.rsp := rfl
@[simp] theorem fbWrite_par (i : Nat) (v : Colour) : (fbWrite s i v).par = s.par := rfl
@[simp] theorem fbWrite_env (i : Nat) (v : Colour) : (fbWrite s i v).env = s.env := rfl
@[simp] theorem fbWrite_tick (i : Nat) (v : Colour) : (fbWrite s i v).tick = s.tick := rfl

/-! ## Writing `PENDING` -/

@[simp] theorem setPending_fb (b : Button) (v : Bool) : (setPending s b v).fb = s.fb := by cases b <;> rfl
@[simp] theorem setPending_color (b : Button) (v : Bool) : (setPending s b v).color = s.color := by cases b <;> rfl
@[simp] theorem setPending_seq (b : Button) (v : Bool) : (setPending s b v).seq = s.seq := by cases b <;> rfl
@[simp] theorem setPending_sidx (b : Button) (v : Bool) : (setPending s b v).sidx = s.sidx := by cases b <;> rfl
@[simp] theorem setPending_txq (b : Button) (v : Bool) : (setPending s b v).txq = s.txq := by cases b <;> rfl
@[simp] theorem setPending_engine (b : Button) (v : Bool) : (setPending s b v).engine = s.engine := by cases b <;> rfl
@[simp] theorem setPending_presc (b : Button) (v : Bool) : (setPending s b v).presc = s.presc := by cases b <;> rfl
@[simp] theorem setPending_timeMs (b : Button) (v : Bool) : (setPending s b v).timeMs = s.timeMs := by cases b <;> rfl
@[simp] theorem setPending_fault (b : Button) (v : Bool) : (setPending s b v).fault = s.fault := by cases b <;> rfl
@[simp] theorem setPending_cause (b : Button) (v : Bool) : (setPending s b v).cause = s.cause := by cases b <;> rfl
@[simp] theorem setPending_info (b : Button) (v : Bool) : (setPending s b v).info = s.info := by cases b <;> rfl
@[simp] theorem setPending_rspV (b : Button) (v : Bool) : (setPending s b v).rspV = s.rspV := by cases b <;> rfl
@[simp] theorem setPending_rsp (b : Button) (v : Bool) : (setPending s b v).rsp = s.rsp := by cases b <;> rfl
@[simp] theorem setPending_par (b : Button) (v : Bool) : (setPending s b v).par = s.par := by cases b <;> rfl
@[simp] theorem setPending_env (b : Button) (v : Bool) : (setPending s b v).env = s.env := by cases b <;> rfl
@[simp] theorem setPending_tick (b : Button) (v : Bool) : (setPending s b v).tick = s.tick := by cases b <;> rfl
@[simp] theorem setPending_capA_same (v : Bool) :
    (setPending s .buttonA v).capA = { s.capA with pending := v } := rfl
@[simp] theorem setPending_capA_other (v : Bool) : (setPending s .buttonB v).capA = s.capA := rfl
@[simp] theorem setPending_capB_same (v : Bool) :
    (setPending s .buttonB v).capB = { s.capB with pending := v } := rfl
@[simp] theorem setPending_capB_other (v : Bool) : (setPending s .buttonA v).capB = s.capB := rfl

/-! ## Raising a fault -/

@[simp] theorem raiseFault_fb (c : Cause) (w : Word) : (raiseFault s c w).fb = s.fb := rfl
@[simp] theorem raiseFault_color (c : Cause) (w : Word) : (raiseFault s c w).color = s.color := rfl
@[simp] theorem raiseFault_seq (c : Cause) (w : Word) : (raiseFault s c w).seq = (seqStep s).seq := rfl
@[simp] theorem raiseFault_sidx (c : Cause) (w : Word) : (raiseFault s c w).sidx = (seqStep s).sidx := rfl
@[simp] theorem raiseFault_txq (c : Cause) (w : Word) : (raiseFault s c w).txq = (engineStep s.par s.engine s.txq).2 ++ (seqStep s).push := rfl
@[simp] theorem raiseFault_engine (c : Cause) (w : Word) : (raiseFault s c w).engine = (engineStep s.par s.engine s.txq).1 := rfl
@[simp] theorem raiseFault_presc (c : Cause) (w : Word) : (raiseFault s c w).presc = prescStep s.par s.presc := rfl
@[simp] theorem raiseFault_timeMs (c : Cause) (w : Word) : (raiseFault s c w).timeMs = timeStep s.par s.presc s.timeMs := rfl
@[simp] theorem raiseFault_capA (c : Cause) (w : Word) : (raiseFault s c w).capA = captureStep s.par s.timeMs s.capA s.turn.btnA := rfl
@[simp] theorem raiseFault_capB (c : Cause) (w : Word) : (raiseFault s c w).capB = captureStep s.par s.timeMs s.capB s.turn.btnB := rfl
@[simp] theorem raiseFault_fault (c : Cause) (w : Word) : (raiseFault s c w).fault = true := rfl
@[simp] theorem raiseFault_cause (c : Cause) (w : Word) : (raiseFault s c w).cause = c := rfl
@[simp] theorem raiseFault_info (c : Cause) (w : Word) : (raiseFault s c w).info = w := rfl
@[simp] theorem raiseFault_rspV (c : Cause) (w : Word) : (raiseFault s c w).rspV = false := rfl
@[simp] theorem raiseFault_rsp (c : Cause) (w : Word) : (raiseFault s c w).rsp = s.rsp := rfl
@[simp] theorem raiseFault_par (c : Cause) (w : Word) : (raiseFault s c w).par = s.par := rfl
@[simp] theorem raiseFault_env (c : Cause) (w : Word) : (raiseFault s c w).env = s.turn.taken := rfl
@[simp] theorem raiseFault_tick (c : Cause) (w : Word) : (raiseFault s c w).tick = s.tick + 1 := rfl

/-! ## Reset -/

@[simp] theorem resetTick_fb : (resetTick s).fb = Vector.replicate nLed 0 := rfl
@[simp] theorem resetTick_color : (resetTick s).color = 0 := rfl
@[simp] theorem resetTick_seq : (resetTick s).seq = .sidle := rfl
@[simp] theorem resetTick_sidx : (resetTick s).sidx = 0 := rfl
@[simp] theorem resetTick_txq : (resetTick s).txq = [] := rfl
@[simp] theorem resetTick_engine : (resetTick s).engine = Engine.afterReset := rfl
@[simp] theorem resetTick_presc : (resetTick s).presc = 0 := rfl
@[simp] theorem resetTick_timeMs : (resetTick s).timeMs = 0 := rfl
@[simp] theorem resetTick_capA : (resetTick s).capA = Capture.afterReset s.par := rfl
@[simp] theorem resetTick_capB : (resetTick s).capB = Capture.afterReset s.par := rfl
@[simp] theorem resetTick_fault : (resetTick s).fault = !s.par.txPresent := rfl
@[simp] theorem resetTick_cause : (resetTick s).cause = if s.par.txPresent then .none else .txUnavailable := rfl
@[simp] theorem resetTick_info : (resetTick s).info = 0 := rfl
@[simp] theorem resetTick_rspV : (resetTick s).rspV = false := rfl
@[simp] theorem resetTick_rsp : (resetTick s).rsp = 0 := rfl
@[simp] theorem resetTick_par : (resetTick s).par = s.par := rfl
@[simp] theorem resetTick_env : (resetTick s).env = envAfterReset s := rfl
@[simp] theorem resetTick_tick : (resetTick s).tick = s.tick + 1 := rfl

/-! ## The engine -/

variable (e : Engine)

@[simp] theorem loadWord_eq (w : Word) :
    loadWord e w = { eng := .shift, sh := w, bitCnt := 24, ph := 0, gapCnt := e.gapCnt } := rfl
@[simp] theorem nextBit_eq :
    nextBit e = { eng := e.eng, sh := e.sh <<< 1, bitCnt := e.bitCnt - 1, ph := 0, gapCnt := e.gapCnt } := rfl
@[simp] theorem beginGap_eq :
    beginGap e = { eng := .gap, sh := e.sh <<< 1, bitCnt := 0, ph := 0, gapCnt := 0 } := rfl

/-! ## A capture unit -/

variable (c : Capture) (p : Params) (t : Word) (x : Bool)

@[simp] theorem shiftSync_pending : (shiftSync c x).pending = c.pending := rfl
@[simp] theorem shiftSync_latV : (shiftSync c x).latV = c.latV := rfl
@[simp] theorem shiftSync_lat : (shiftSync c x).lat = c.lat := rfl
@[simp] theorem shiftSync_prev : (shiftSync c x).prev = synced c := rfl
@[simp] theorem shiftSync_sync : (shiftSync c x).sync = (x :: c.sync).dropLast := rfl

@[simp] theorem captureStep_sync : (captureStep p t c x).sync = (x :: c.sync).dropLast := by
  unfold captureStep; split <;> rfl
@[simp] theorem captureStep_prev : (captureStep p t c x).prev = synced c := by
  unfold captureStep; split <;> rfl
@[simp] theorem captureStep_pending : (captureStep p t c x).pending = (accept p t c || c.pending) := by
  unfold captureStep; split <;> simp_all
@[simp] theorem captureStep_latV : (captureStep p t c x).latV = (accept p t c || c.latV) := by
  unfold captureStep; split <;> simp_all
@[simp] theorem captureStep_lat : (captureStep p t c x).lat = if accept p t c then t else c.lat := by
  unfold captureStep; split <;> simp_all

end Sys2Proof.Machine
end

