-- ==== Sys2Proof/Laws/Ops.lean ====
section
/-! SUPPORT. Once for each shared operation, everything it can do: the step, the tick, the engine, the sequencer, and
what every command leaves to the units that step by themselves. -/

namespace Sys2Proof.Machine

/-! ## Outcomes -/

@[simp] theorem answers_next (t : State) (P : State → Prop) : Answers (.next t) P ↔ P t := by
  constructor
  · rintro ⟨u, h, hu⟩; cases h; exact hu
  · intro h; exact ⟨t, rfl, h⟩

/-! ## Arithmetic of times and parameters -/

/-- What legal parameters satisfy, each constraint as a fact. -/
theorem paramsOk_facts {p : Params} (h : paramsOk p = true) :
    1 ≤ p.tShort ∧ p.tShort < p.tLong ∧ p.tResetMin ≤ p.tReset ∧ p.fClk ≤ p.tResetMin * 20000 ∧ 1 ≤ p.txqDepth ∧
    p.ticksPerMs * 1000 = p.fClk ∧ 0 < p.intensityQ8 ∧ p.intensityQ8 ≤ 256 ∧ p.debounceMs < 2 ^ (p.timeW - 1) ∧
    1 ≤ p.ticksPerMs ∧ 1 ≤ p.syncStages ∧ 1 ≤ p.timeW ∧ p.timeW ≤ 32 := by
  simpa [paramsOk] using h

/-- A gap of legal parameters has at least one tick. -/
theorem tReset_pos {p : Params} (h : paramsOk p = true) : 1 ≤ p.tReset := by
  have := paramsOk_facts h; omega

/-- A bit of legal parameters has at least three ticks. -/
theorem three_le_bitTicks {p : Params} (h : paramsOk p = true) : 3 ≤ bitTicks p := by
  have := paramsOk_facts h; simp only [bitTicks]; omega

/-- The successor of a time is again a time of `TIME_W` bits. -/
theorem timeSucc_lt {p : Params} (h : paramsOk p = true) (t : Word) : (timeSucc p t).toNat < 2 ^ p.timeW := by
  have hw := (paramsOk_facts h).2.2.2.2.2.2.2.2.2.2.2.2
  have hlt : (t.toNat + 1) % 2 ^ p.timeW < 2 ^ p.timeW := Nat.mod_lt _ (by positivity)
  have hle : 2 ^ p.timeW ≤ 2 ^ 32 := Nat.pow_le_pow_right (by decide) hw
  simp only [timeSucc, BitVec.toNat_ofNat]
  rw [Nat.mod_eq_of_lt (Nat.lt_of_lt_of_le hlt hle)]
  exact hlt

/-! ## The step -/

/-- Everything a step that answers a next state can have done. -/
theorem step_cases {s t : State} (h : step s = .next t) :
    paramsOk s.par = true ∧ s.turn.stop = none ∧
    ((s.turn.rst = true ∧ t = resetTick s) ∨
     (s.turn.rst = false ∧ ∃ w i, s.acceptedWord = some w ∧ decode w = .ok i ∧ exec i s = .next t) ∨
     (s.turn.rst = false ∧ ∃ w e, s.acceptedWord = some w ∧ decode w = .error e ∧ t = illegalTick s w) ∨
     (s.turn.rst = false ∧ s.acceptedWord = none ∧ t = idleTick s)) := by
  unfold step tickChecked at h
  split at h
  case isFalse => cases h
  case isTrue hp =>
    split at h
    case h_1 why _ => cases why <;> cases h
    case h_2 hs =>
      refine ⟨hp, hs, ?_⟩
      unfold tickOf at h
      split at h
      case isTrue hr => cases h; exact .inl ⟨hr, rfl⟩
      case isFalse hr =>
        have hr' : s.turn.rst = false := by simpa using hr
        split at h
        case h_1 w hw =>
          unfold runWord at h
          split at h
          case h_1 i hi => exact .inr (.inl ⟨hr', w, i, hw, hi, h⟩)
          case h_2 e he => cases h; exact .inr (.inr (.inl ⟨hr', w, e, hw, he, rfl⟩))
        case h_2 hw => cases h; exact .inr (.inr (.inr ⟨hr', hw, rfl⟩))

/-- A step of legal parameters whose outside does not stop is the tick. -/
theorem step_eq_tickOf {s : State} (hp : paramsOk s.par = true) (hs : s.turn.stop = none) : step s = tickOf s := by
  simp [step, tickChecked, hp, hs]

/-! ## Acceptance -/

/-- A word is accepted only with an idle sequencer, no fault and no reset (R39, R92). -/
theorem accepted_ready {s : State} {w : Word} (h : s.acceptedWord = some w) :
    s.seq = .sidle ∧ s.fault = false ∧ s.turn.rst = false ∧ s.turn.offer = some w := by
  unfold State.acceptedWord at h
  split at h
  case isTrue hr =>
    simp only [State.cmdReady, State.readyAt, Bool.and_eq_true, decide_eq_true_eq, Bool.not_eq_true'] at hr
    exact ⟨hr.1.1, hr.1.2, hr.2, h⟩
  case isFalse => cases h

/-! ## What every instruction leaves to the units -/

/-- A command leaves the engine, the queue, the clock, the synchronizers, the outside and the parameters to the units
that step by themselves (R282). -/
theorem exec_command_units {i : Instr} {s t : State} (hi : i.isCommand = true) (h : exec i s = .next t) :
    t.engine = (s.advance true).engine ∧ t.txq = (s.advance true).txq ∧ t.presc = (s.advance true).presc ∧
    t.timeMs = (s.advance true).timeMs ∧ t.env = (s.advance true).env ∧ t.par = s.par ∧
    t.tick = s.tick + 1 ∧ t.sidx = (s.advance true).sidx := by
  cases i <;> simp only [Instr.isCommand, Bool.false_eq_true] at hi <;>
    simp only [exec, execNop, execEnc, execMap, execClr, execCol, execPlot, execPuti, execRdpx, execTx, execTake,
      execTime] at h <;>
    (try split at h) <;> cases h
  case take b => cases b <;> exact ⟨rfl, rfl, rfl, rfl, rfl, rfl, rfl, rfl⟩
  all_goals exact ⟨rfl, rfl, rfl, rfl, rfl, rfl, rfl, rfl⟩

/-- Every instruction answers a next state: the block itself never stops. -/
theorem exec_answers (i : Instr) (s : State) : ∃ t, exec i s = .next t := by
  cases i <;>
    simp only [exec, execNop, execEnc, execMap, execClr, execCol, execPlot, execPuti, execRdpx, execTx, execTake,
      execTime, execSym0, execSym1, execReset, execWireword] <;>
    (try split) <;> exact ⟨_, rfl⟩

/-! ## The sequencer -/

/-- Everything the sequencer can do in one tick (R165 to R167). -/
theorem seqStep_cases (s : State) :
    (s.seq = .sidle ∧ seqStep s = { seq := .sidle, sidx := s.sidx, push := [] }) ∨
    (s.seq = .swait ∧ s.engine.eng = .idle ∧ s.txq = [] ∧ seqStep s = { seq := .spush, sidx := 0, push := [] }) ∨
    (s.seq = .swait ∧ ¬(s.engine.eng = .idle ∧ s.txq = []) ∧
      seqStep s = { seq := .swait, sidx := s.sidx, push := [] }) ∨
    (s.seq = .spush ∧ s.txq.length < s.par.txqDepth ∧ seqStep s =
      { seq := if s.sidx = 24 then .sidle else .spush, sidx := s.sidx + 1, push := [wireOf (fbRead s s.sidx)] }) ∨
    (s.seq = .spush ∧ s.par.txqDepth ≤ s.txq.length ∧ seqStep s = { seq := .spush, sidx := s.sidx, push := [] }) := by
  unfold seqStep
  split
  case h_1 h => exact .inl ⟨h, rfl⟩
  case h_2 h =>
    simp only [List.length_eq_zero_iff]
    split
    case isTrue hw => exact .inr (.inl ⟨h, hw.1, hw.2, rfl⟩)
    case isFalse hw => exact .inr (.inr (.inl ⟨h, hw, rfl⟩))
  case h_3 h =>
    split
    case isTrue hw => exact .inr (.inr (.inr (.inl ⟨h, hw, rfl⟩)))
    case isFalse hw => exact .inr (.inr (.inr (.inr ⟨h, by omega, rfl⟩)))

/-! ## The frame buffer -/

/-- What a position of the frame buffer reads as after a write. -/
theorem fbRead_fbWrite (s : State) (i j : Nat) (v : Colour) (hj : j < 25) :
    fbRead (fbWrite s i v) j = if i = j then v else fbRead s j := by
  simp [fbRead, hj, Vector.getElem_setIfInBounds]

/-! ## The engine -/

/-- Everything the engine can do in one tick (R168 to R175). -/
theorem engineStep_cases (p : Params) (e : Engine) (q : List Word) :
    (e.eng = .idle ∧ q = [] ∧ engineStep p e q = (e, [])) ∨
    (e.eng = .idle ∧ ∃ w r, q = w :: r ∧ engineStep p e q = (loadWord e w, r)) ∨
    (e.eng = .shift ∧ e.ph < bitTicks p - 1 ∧ engineStep p e q = ({ e with ph := e.ph + 1 }, q)) ∨
    (e.eng = .shift ∧ e.ph = bitTicks p - 1 ∧ 1 < e.bitCnt ∧ engineStep p e q = (nextBit e, q)) ∨
    (e.eng = .shift ∧ e.ph = bitTicks p - 1 ∧ e.bitCnt = 1 ∧
      ((q = [] ∧ engineStep p e q = (beginGap e, [])) ∨ ∃ w r, q = w :: r ∧ engineStep p e q = (loadWord e w, r))) ∨
    (e.eng = .gap ∧ e.gapCnt < p.tReset - 1 ∧ engineStep p e q = ({ e with gapCnt := e.gapCnt + 1 }, q)) ∨
    (e.eng = .gap ∧ e.gapCnt = p.tReset - 1 ∧ engineStep p e q = ({ e with eng := .idle, gapCnt := 0 }, q)) ∨
    (engineStep p e q = (e, q) ∧
      ((e.eng = .shift ∧ (bitTicks p - 1 < e.ph ∨ e.bitCnt = 0)) ∨ (e.eng = .gap ∧ p.tReset - 1 < e.gapCnt))) := by
  unfold engineStep
  split <;> rename_i he
  · cases q <;> simp [he]
  · by_cases h1 : e.ph < bitTicks p - 1
    · simp [he, h1]
    · by_cases h2 : e.ph = bitTicks p - 1
      · by_cases h3 : 1 < e.bitCnt
        · simp [he, h2, h3]
        · by_cases h4 : e.bitCnt = 1
          · cases q <;> simp [he, h2, h4]
          · have : e.bitCnt = 0 := by omega
            simp [he, h2, this]
      · have : bitTicks p - 1 < e.ph := by omega
        simp [he, h1, h2, this]
  · by_cases h1 : e.gapCnt < p.tReset - 1
    · simp [he, h1]
    · by_cases h2 : e.gapCnt = p.tReset - 1
      · simp [he, h2]
      · have : p.tReset - 1 < e.gapCnt := by omega
        simp [he, h1, h2, this]

end Sys2Proof.Machine
end

