-- ==== Sys2Proof/Laws/PerInstr.lean ====
section
/-! SUPPORT. Statements made per instruction: the family TableRow says that an instruction's word has the fixed bits of
its row of the opcode table (30_encoding.md R93, R101, R102). -/

namespace Sys2Proof.Laws.TableRow

/-- The word of `i` is in the table's row of `i`: `w and mask = match` (R93). -/
def Statement (i : Instr) : Prop := encode i &&& tableMask i = tableMatch i

theorem nop : Statement .nop := by unfold Statement; decide

theorem enc (r g b : Channel) : Statement (.enc r g b) := by
  unfold Statement encode tableMask tableMatch wordC
  ext i hi
  interval_cases i <;> simp

theorem map (x y : Coord) : Statement (.map x y) := by
  unfold Statement encode tableMask tableMatch wordXY
  ext i hi
  interval_cases i <;> simp

theorem clr : Statement .clr := by unfold Statement; decide

theorem col (r g b : Channel) : Statement (.col r g b) := by
  unfold Statement encode tableMask tableMatch wordC
  ext i hi
  interval_cases i <;> simp

theorem plot (x y : Coord) : Statement (.plot x y) := by
  unfold Statement encode tableMask tableMatch wordXY
  ext i hi
  interval_cases i <;> simp

theorem puti (idx : PixelIndex) : Statement (.puti idx) := by
  unfold Statement encode tableMask tableMatch wordI
  ext i hi
  interval_cases i <;> simp

theorem rdpx (idx : PixelIndex) : Statement (.rdpx idx) := by
  unfold Statement encode tableMask tableMatch wordI
  ext i hi
  interval_cases i <;> simp

theorem tx : Statement .tx := by unfold Statement; decide

theorem take (btn : Button) : Statement (.take btn) := by cases btn <;> (unfold Statement; decide)

theorem time : Statement .time := by unfold Statement; decide

theorem sym0 : Statement .sym0 := by unfold Statement; decide

theorem sym1 : Statement .sym1 := by unfold Statement; decide

theorem reset : Statement .reset := by unfold Statement; decide

theorem wireword (g r b : Channel) : Statement (.wireword g r b) := by
  unfold Statement encode tableMask tableMatch wordWire
  ext i hi
  interval_cases i <;> simp

end Sys2Proof.Laws.TableRow
end

