-- ==== Sys2Proof/Laws/Step.lean ====
section
/-! SUPPORT. What a tick without reset leaves in each register, whatever the outside does; runs of ticks and induction
over them. -/

namespace Sys2Proof.Machine

/-! ## Commands -/

/-- A word on the command port never decodes to an item of the transmit engine. -/
theorem decode_isCommand {w : Word} {i : Instr} (h : decode w = .ok i) : i.isCommand = true := by
  unfold decode at h
  repeat' split at h
  all_goals first
    | (cases h; rfl)
    | cases h

/-- The sequencer's state after a command: `TX` starts it (R161), every other leaves it to its own rule. -/
theorem exec_command_seq {i : Instr} {s t : State} (hi : i.isCommand = true) (h : exec i s = .next t) :
    t.seq = (seqStep s).seq ∨ (i = .tx ∧ t.seq = .swait) := by
  cases i <;> simp only [Instr.isCommand, Bool.false_eq_true] at hi <;>
    simp only [exec, execNop, execEnc, execMap, execClr, execCol, execPlot, execPuti, execRdpx, execTx, execTake,
      execTime] at h <;>
    (try split at h) <;> cases h
  case take b => cases b <;> exact .inl rfl
  all_goals first
    | exact .inl rfl
    | exact .inr ⟨rfl, rfl⟩

/-- A capture unit after a command: `TAKE` of its button rewrites `PENDING` (R210, R211), every other leaves it to its
own rule. -/
theorem exec_command_cap {i : Instr} {s t : State} (b : Button) (hi : i.isCommand = true) (h : exec i s = .next t) :
    t.cap b = (s.advance true).cap b ∨
    (i = .take b ∧ t.cap b = { (s.advance true).cap b with pending := s.accepts b }) := by
  cases i <;> simp only [Instr.isCommand, Bool.false_eq_true] at hi <;>
    simp only [exec, execNop, execEnc, execMap, execClr, execCol, execPlot, execPuti, execRdpx, execTx, execTake,
      execTime] at h <;>
    (try split at h) <;> cases h
  case take b' => cases b <;> cases b' <;> first | exact .inl rfl | exact .inr ⟨rfl, rfl⟩
  all_goals cases b <;> exact .inl rfl

/-- The fault registers after a command: as they were, or those of `BAD_INDEX` where an operand is out of range
(R274). -/
theorem exec_command_fault {i : Instr} {s t : State} (hi : i.isCommand = true) (h : exec i s = .next t) :
    (i.wellFormed = true ∧ t.fault = s.fault ∧ t.cause = s.cause ∧ t.info = s.info) ∨
    (i.wellFormed = false ∧ t.fault = true ∧ t.cause = .badIndex ∧ t.info = encode i) := by
  have hc : ∀ x y : Coord, badCoords x y = !coordsValid x y := by decide
  have hx : ∀ x : PixelIndex, badIndex x = !indexValid x := by decide
  cases i <;> simp only [Instr.isCommand, Bool.false_eq_true] at hi <;>
    simp only [exec, execNop, execEnc, execMap, execClr, execCol, execPlot, execPuti, execRdpx, execTx, execTake,
      execTime, hc, hx, Bool.not_eq_true'] at h
  case take b => cases h; cases b <;> exact .inl ⟨rfl, rfl, rfl, rfl⟩
  case map | plot | puti | rdpx =>
    split at h <;> rename_i hw <;> cases h
    · exact .inr ⟨hw, rfl, rfl, rfl⟩
    · exact .inl ⟨by simpa [Instr.wellFormed] using hw, rfl, rfl, rfl⟩
  all_goals cases h; exact .inl ⟨rfl, rfl, rfl, rfl⟩

/-! ## A tick without reset -/

/-- What a tick without reset leaves in the registers no command writes. -/
theorem step_units {s t : State} (hr : s.turn.rst = false) (h : step s = .next t) :
    t.engine = (engineStep s.par s.engine s.txq).1 ∧
    t.txq = (engineStep s.par s.engine s.txq).2 ++ (seqStep s).push ∧
    t.sidx = (seqStep s).sidx ∧ t.presc = prescStep s.par s.presc ∧
    t.timeMs = timeStep s.par s.presc s.timeMs ∧ t.par = s.par ∧ t.tick = s.tick + 1 := by
  obtain ⟨-, -, ⟨h1, -⟩ | ⟨-, w, i, -, hi, he⟩ | ⟨-, w, e, -, -, rfl⟩ | ⟨-, -, rfl⟩⟩ := step_cases h
  · simp [hr] at h1
  · obtain ⟨a, b, c, d, -, f, g, k⟩ := exec_command_units (decode_isCommand hi) he
    exact ⟨a, b, k, c, d, f, g⟩
  · simp [illegalTick]
  · simp [idleTick]

/-- What a tick without reset leaves in `SEQ`. -/
theorem step_seq {s t : State} (hr : s.turn.rst = false) (h : step s = .next t) :
    t.seq = (seqStep s).seq ∨
    (s.seq = .sidle ∧ t.seq = .swait ∧ ∃ w, s.acceptedWord = some w ∧ decode w = .ok .tx) := by
  obtain ⟨-, -, ⟨h1, -⟩ | ⟨-, w, i, hw, hi, he⟩ | ⟨-, w, e, -, -, rfl⟩ | ⟨-, -, rfl⟩⟩ := step_cases h
  · simp [hr] at h1
  · rcases exec_command_seq (decode_isCommand hi) he with h2 | ⟨rfl, h2⟩
    · exact .inl h2
    · exact .inr ⟨(accepted_ready hw).1, h2, w, hw, hi⟩
  · exact .inl (by simp [illegalTick])
  · exact .inl (by simp [idleTick])

/-- What a tick without reset leaves in a capture unit: its own rule's values, `PENDING` rewritten where its `TAKE` is
accepted (R210, R211). -/
theorem step_cap {s t : State} (b : Button) (hr : s.turn.rst = false) (h : step s = .next t) :
    t.cap b = (s.advance true).cap b ∨
    (t.cap b = { (s.advance true).cap b with pending := s.accepts b } ∧
      ∃ w, s.acceptedWord = some w ∧ decode w = .ok (.take b)) := by
  obtain ⟨-, -, ⟨h1, -⟩ | ⟨-, w, i, hw, hi, he⟩ | ⟨-, w, e, -, -, rfl⟩ | ⟨-, -, rfl⟩⟩ := step_cases h
  · simp [hr] at h1
  · rcases exec_command_cap b (decode_isCommand hi) he with h | ⟨rfl, h⟩
    · exact .inl h
    · exact .inr ⟨h, w, hw, hi⟩
  · cases b <;> exact .inl rfl
  · cases b <;> exact .inl rfl

/-- The step with `rst = 1`. -/
theorem step_reset {s t : State} (hr : s.turn.rst = true) (h : step s = .next t) : t = resetTick s := by
  obtain ⟨-, -, ⟨-, h1⟩ | ⟨h1, -⟩ | ⟨h1, -⟩ | ⟨h1, -⟩⟩ := step_cases h
  · exact h1
  all_goals simp [hr] at h1

/-! ## Runs -/

theorem after_zero {s u : State} : After 0 s u ↔ u = s :=
  ⟨fun h => by cases h; rfl, fun h => by cases h; rfl⟩

/-- A run of `k + 1` ticks is a first tick and a run of `k`. -/
theorem after_succ {k : Nat} {s u : State} : After (k + 1) s u ↔ ∃ t, step s = .next t ∧ After k t u := by
  simp only [After, Host.Core.run]
  constructor
  · intro h
    split at h
    case h_1 t ht => exact ⟨t, ht, h⟩
    case h_2 => cases h
    case h_3 => cases h
  · rintro ⟨t, ht, h⟩
    have hc : Sys2Proof.core.step s = .next t := ht
    rw [hc]
    exact h

/-- A run of `k + 1` ticks is a run of `k` and a last tick. -/
theorem after_last {k : Nat} {s u : State} : After (k + 1) s u ↔ ∃ t, After k s t ∧ step t = .next u := by
  induction k generalizing s u with
  | zero => simp [after_succ, after_zero]
  | succ k ih =>
    rw [after_succ]
    constructor
    · rintro ⟨t, h, h2⟩
      obtain ⟨v, hv, hu⟩ := ih.1 h2
      exact ⟨v, after_succ.2 ⟨t, h, hv⟩, hu⟩
    · rintro ⟨v, hv, hu⟩
      obtain ⟨t, h, h2⟩ := after_succ.1 hv
      exact ⟨t, h, ih.2 ⟨v, h2, hu⟩⟩

theorem noReset_mono {k l : Nat} {s : State} (h : NoReset k s) (hl : l ≤ k) : NoReset l s :=
  fun j hj u hu => h j (Nat.lt_of_lt_of_le hj hl) u hu

/-- Induction over a run without reset. -/
theorem run_induct (P : Nat → State → Prop) {s : State} (h0 : P 0 s)
    (hs : ∀ k u v, P k u → u.turn.rst = false → step u = .next v → P (k + 1) v) (k : Nat) :
    ∀ u, NoReset k s → After k s u → P k u := by
  induction k with
  | zero => intro u _ h; rw [after_zero] at h; exact h ▸ h0
  | succ k ih =>
    intro u hn h
    obtain ⟨t, ht, hu⟩ := after_last.1 h
    exact hs k t u (ih t (noReset_mono hn (Nat.le_succ k)) ht) (hn k (Nat.lt_succ_self k) t ht) hu

/-- A run of a state whose every tick keeps `P`, resets too. -/
theorem run_invariant (P : State → Prop) (hs : ∀ u v, P u → step u = .next v → P v) (k : Nat) :
    ∀ s u, P s → After k s u → P u := by
  induction k with
  | zero => intro s u hp h; rw [after_zero] at h; exact h ▸ hp
  | succ k ih =>
    intro s u hp h
    obtain ⟨t, ht, hu⟩ := after_last.1 h
    exact hs t u (ih s t hp ht) hu

/-! ## Words -/

/-- Disjoint bits add. -/
theorem or_eq_add (a b k : Nat) (hb : b < 2 ^ k) (ha : 2 ^ k ∣ a) : a ||| b = a + b := by
  obtain ⟨c, rfl⟩ := ha
  rw [Nat.mul_comm, ← Nat.shiftLeft_eq, Nat.shiftLeft_add_eq_or_of_lt hb]

/-- A queued word's padding byte is zero (R102). -/
theorem wireOf_padding (c : Colour) : wireOf c &&& 0xFF = 0 := by
  simp only [wireOf, wireWord]
  ext i hi
  interval_cases i <;> simp

end Sys2Proof.Machine
end

