-- ==== Sys2Proof/Tests/Slice0.lean ====
section
/-! SUPPORT. Small tests, their expected values from 95_test_vectors.md and the encodings of the spec, and for every
obligation with hypotheses a witness that meets them. -/

namespace Sys2Proof.Tests

open Sys2Proof Sys2Proof.Machine

/-! ## Helpers -/

/-- A field of the state after one tick; none where the tick has no next state. -/
def see {α : Type} (f : State → α) (o : Host.Outcome State Fault Refusal) : Option α :=
  match o with
  | .next t => some (f t)
  | _ => none

/-- The tick from reset in which `w` is accepted. -/
def accepting (w : Nat) : Host.Outcome State Fault Refusal := step (State.reset.withFetchWord 32 w)

/-- A host program with no line left: nothing is offered, no reset, both buttons released. -/
def quietHost : Env := .script { font := fontExample, btnA := true, btnB := true, rest := [] }

/-- Legal parameters with the shortest bits, gap and milliseconds. -/
def small : Params :=
  { Params.default with
    fClk := 1000, tShort := 1, tLong := 2, tReset := 1, tResetMin := 1, txqDepth := 1, ticksPerMs := 1 }

/-- The engine at rest. -/
def restEngine : Engine := { eng := .idle, sh := 0, bitCnt := 0, ph := 0, gapCnt := 0 }

/-- The engine in the last tick of a word's last bit. -/
def endEngine (p : Params) : Engine := { eng := .shift, sh := 0, bitCnt := 1, ph := bitTicks p - 1, gapCnt := 0 }

/-- After reset with the small parameters, the engine at rest, under a quiet host. -/
def rest : State := { State.resetOf small with env := quietHost, engine := restEngine }

/-- The same in the last tick of a word. -/
def atEnd : State := { rest with engine := endEngine small }

/-- A tick's pins with the given command offer. -/
def pins (rst cmdValid : Bool) (cmd : Word) : Inputs := { rst, cmdValid, cmd, btnA := true, btnB := true }

/-- After reset with the pins of one tick given. -/
def withPins (i : Inputs) : State := { State.reset with env := .port [i] }

/-! ## Ill-formed operands (R91) -/

theorem test_wf_map_x : Instr.wellFormed (.map 5 0) = false := by decide
theorem test_wf_map_y : Instr.wellFormed (.map 0 5) = false := by decide
theorem test_wf_plot_x : Instr.wellFormed (.plot 7 4) = false := by decide
theorem test_wf_plot_y : Instr.wellFormed (.plot 4 5) = false := by decide
theorem test_wf_puti : Instr.wellFormed (.puti 25) = false := by decide
theorem test_wf_rdpx : Instr.wellFormed (.rdpx 31) = false := by decide
theorem test_wf_corner : Instr.wellFormed (.plot 4 4) = true ∧ Instr.wellFormed (.puti 24) = true := by decide

/-! ## Decoding: words of T1 to T4 and of the encodings -/

theorem test_decode_nop : decode 0x00000000 = .ok .nop := by decide
theorem test_decode_enc : decode 0x1012A5F0 = .ok (.enc 0x12 0xA5 0xF0) := by decide
theorem test_decode_map : decode 0x20000019 = .ok (.map 1 3) := by decide
theorem test_decode_clr : decode 0x30000000 = .ok .clr := by decide
theorem test_decode_col : decode 0x407F0040 = .ok (.col 127 0 64) := by decide
theorem test_decode_plot : decode 0x5000002C = .ok (.plot 4 5) := by decide
theorem test_decode_puti : decode 0x6000001F = .ok (.puti 31) := by decide
theorem test_decode_rdpx : decode 0x70000006 = .ok (.rdpx 6) := by decide
theorem test_decode_tx : decode 0x80000000 = .ok .tx := by decide
theorem test_decode_take : decode 0x90000001 = .ok (.take .buttonB) := by decide
theorem test_decode_time : decode 0xA0000000 = .ok .time := by decide
theorem test_decode_wireword : decodeWire 0xA512F000 = some (.wireword 0xA5 0x12 0xF0) := by decide
theorem test_decode_padding : decodeWire 0xA512F001 = none := by decide
theorem test_decode_sym0 : decodeTableWord 25 0b1111111100000000000000000 = some .sym0 := by decide
theorem test_decode_sym1 : decodeTableWord 25 0b1111111111111111100000000 = some .sym1 := by decide
theorem test_decode_gap : decodeTableWord 2000 0 = some .reset := by decide
theorem test_illegal_opcode : decode 0xB0000000 = .error .unusedOpcode := by decide
theorem test_illegal_nibble : decode 0x41000000 = .error .reservedNibble := by decide
theorem test_illegal_nop : decode 0x00000001 = .error .operandBits := by decide
theorem test_illegal_map : decode 0x20000040 = .error .operandBits := by decide
theorem test_illegal_puti : decode 0x60000020 = .error .operandBits := by decide
theorem test_illegal_take : decode 0x90000002 = .error .operandBits := by decide
theorem test_illegal_time : decode 0xA0000100 = .error .operandBits := by decide

/-! ## Encoding: the words of P1 and P3 -/

/-- T5: the WireWord of the colour `0x12A5F0`. -/
theorem test_wireOf : wireOf 0x12A5F0 = 0xA512F000 := by decide

/-- V2: the scaled colour of digit 9. -/
theorem test_scaledColour : scaledColour Params.default fontExample[9] = 0x19664C := by decide

theorem test_encode_col : encode (.col 0x7F 0x7F 0x00) = 0x407F7F00 := by decide
theorem test_encode_plot : encode (.plot 3 4) = 0x50000023 := by decide
theorem test_encode_take : encode (.take .buttonB) = 0x90000001 := by decide

/-! ## One tick of each command -/

/-- T10: a tick with `NOP` leaves no response. -/
theorem test_nop : see State.rspV (accepting 0x00000000) = some false := by decide

/-- T1: `ENC 0x12, 0xA5, 0xF0`. -/
theorem test_enc : see (fun t => (t.rspV, t.rsp)) (accepting 0x1012A5F0) = some (true, 0xA512F000) := by decide

/-- T1: the padding stays zero. -/
theorem test_enc_white : see State.rsp (accepting 0x10FFFFFF) = some 0xFFFFFF00 := by decide

/-- T2: `MAP 1, 3` is 6. -/
theorem test_map : see State.rsp (accepting 0x20000019) = some 6 := by decide

/-- T2: `MAP 7, 7` is one fault. -/
theorem test_map_fault :
    see (fun t => (t.fault, t.cause, t.info, t.rspV)) (accepting 0x2000003F) =
      some (true, .badIndex, 0x2000003F, false) := by decide

/-- T3: `CLR` keeps `COLOR`. -/
theorem test_clr :
    see (fun t => (t.fb[24], t.color))
      (exec .clr { rest with color := 0x0000FF, fb := Vector.replicate 25 0x123456 }) = some (0, 0x0000FF) := by decide

/-- T3: `COL 127, 0, 64`. -/
theorem test_col : see State.color (accepting 0x407F0040) = some 0x7F0040 := by decide

/-- T3: `PLOT 1, 3` stores in `FB[6]`. -/
theorem test_plot :
    see (fun t => (t.fb[6], t.fb[5])) (exec (.plot 1 3) { rest with color := 0x7F0040 }) = some (0x7F0040, 0) := by
  decide

/-- T4: `PLOT 5, 5` is one fault. -/
theorem test_plot_fault :
    see (fun t => (t.fault, causeCode t.cause, t.info)) (accepting 0x5000002D) = some (true, 2, 0x5000002D) := by decide

/-- T3: `PUTI 24`, no transform. -/
theorem test_puti :
    see (fun t => (t.fb[24], t.fb[0])) (exec (.puti 24) { rest with color := 0x0000FF }) = some (0x0000FF, 0) := by
  decide

/-- P4: `PUTI 25`. -/
theorem test_puti_fault :
    see (fun t => (t.fault, causeCode t.cause, t.info, t.cmdReady)) (exec (.puti 25) rest) =
      some (true, 2, 0x60000019, false) := by decide

/-- T3: `RDPX 6` sees `FB[6]`. -/
theorem test_rdpx :
    see State.rsp (exec (.rdpx 6) { rest with fb := (Vector.replicate 25 0).set 6 0x7F0040 }) = some 0x007F0040 := by
  decide

/-- T3: `RDPX 25` faults with no response. -/
theorem test_rdpx_fault : see (fun t => (t.fault, t.rspV)) (accepting 0x70000019) = some (true, false) := by decide

/-- T6: `TX` makes the block busy in the next tick. -/
theorem test_tx : see (fun t => (t.seq, t.readyAt false)) (accepting 0x80000000) = some (.swait, false) := by decide

/-- T9, row 2: `TAKE` of a pending flag. -/
theorem test_take :
    see (fun t => (t.rsp, t.capB.pending, t.capA.pending))
      (exec (.take .buttonB) { rest with
        capA := { sync := [true, true], prev := true, pending := true, latV := true, lat := 0 }
        capB := { sync := [true, true], prev := true, pending := true, latV := true, lat := 0 } }) =
      some (1, false, true) := by decide

/-- T9, row 3: an edge accepted in the tick of the `TAKE` wins. -/
theorem test_take_race :
    see (fun t => (t.rsp, t.capA.pending))
      (exec (.take .buttonA) { rest with
        capA := { sync := [false, false], prev := true, pending := false, latV := false, lat := 0 } }) =
      some (0, true) := by decide

/-- T10: the tick of the increment returns the old value. -/
theorem test_time :
    see (fun t => (t.rsp, t.timeMs)) (exec .time { State.reset with presc := 19999, env := quietHost }) =
      some (0, 1) := by decide

/-- T4: an illegal word. -/
theorem test_illegal_word :
    see (fun t => (t.fault, causeCode t.cause, t.info, t.rspV)) (accepting 0x50000407) =
      some (true, 3, 0x50000407, false) := by decide

/-! ## The line items -/

/-- R101: `SYM0` of the table, placed from reset, begins with the line high and its bit 0 on it. -/
theorem test_sym0 :
    see (fun t => (t.dout, t.engine.sh.getLsbD 31, t.engine.ph)) (step (State.reset.withFetchWord 25 0x01FE0000)) =
      some (true, false, 0) := by decide

/-- R101: `SYM1`. -/
theorem test_sym1 :
    see (fun t => (t.dout, t.engine.sh.getLsbD 31, t.engine.ph)) (step (State.reset.withFetchWord 25 0x01FFFF00)) =
      some (true, true, 0) := by decide

/-- T6: the gap begins with `GAPCNT = 0` and the line low. -/
theorem test_gap :
    see (fun t => (t.dout, t.engine.eng, t.engine.gapCnt)) (step (State.reset.withFetchWord 2000 0)) =
      some (false, .gap, 0) := by decide

/-- R168: the engine takes the queue's oldest word. -/
theorem test_wireword :
    see (fun t => (t.engine.sh, t.engine.bitCnt, t.txq))
      (exec (.wireword 0xA5 0x12 0xF0) { rest with txq := [0xA512F000, 0x00000100] }) =
      some (0xA512F000, 24, [0x00000100]) := by decide

/-! ## Capture, time and the host -/

/-- T8: the window is strict. -/
theorem test_window :
    accept Params.default 1200 { sync := [false, false], prev := true, pending := false, latV := true, lat := 1000 } =
      false ∧
    accept Params.default 1201 { sync := [false, false], prev := true, pending := false, latV := true, lat := 1000 } =
      true := by decide

/-- T8: the window across the clock's wrap. -/
theorem test_window_wrap :
    accept Params.default 0x64
      { sync := [false, false], prev := true, pending := false, latV := true, lat := 0xFFFFFF9C } = false ∧
    accept Params.default 0x65
      { sync := [false, false], prev := true, pending := false, latV := true, lat := 0xFFFFFF9C } = true := by decide

/-- T10: the clock wraps. -/
theorem test_time_wrap : timeStep Params.default 19999 0xFFFFFFFF = 0 := by decide

/-- T11: scaling truncates. -/
theorem test_scale :
    scale Params.default 255 = 127 ∧ scale Params.default 0x33 = 25 ∧
    scale { Params.default with intensityQ8 := 255 } 128 = 127 := by decide

/-- P3: the words of `RENDER 0` with the spec's example font. -/
theorem test_render :
    (render Params.default fontExample 0).map encode =
      [0x30000000, 0x407F0000, 0x50000001, 0x50000002, 0x50000003, 0x50000009, 0x5000000B, 0x50000011, 0x50000013,
        0x50000019, 0x5000001B, 0x50000021, 0x50000022, 0x50000023, 0x80000000] := by decide

/-- V5: digits wrap around. -/
theorem test_digits : digitUp 9 = 0 ∧ digitDown 0 = 9 ∧ digitUp 4 = 5 ∧ digitDown 9 = 8 := by decide

/-- T12: the blink indicator across the clock's wrap. -/
theorem test_blink :
    (blinkTick Params.default { RefHost.start Params.default fontExample with blinkLast := 0xFFFFFFCE } 0x31).blinkLevel =
      false ∧
    (blinkTick Params.default { RefHost.start Params.default fontExample with blinkLast := 0xFFFFFFCE } 0x32).blinkLevel =
      true := by decide

/-! ## Runs for the witnesses -/

/-- A tick under a quiet host leads to the next one. -/
theorem quiet_step {s : State} (hp : paramsOk s.par = true) (he : s.env = quietHost) :
    s.turn.rst = false ∧ ∃ t, step s = .next t ∧ paramsOk t.par = true ∧ t.env = quietHost := by
  have ht : s.turn = scriptPause { font := fontExample, btnA := true, btnB := true, rest := [] } := by
    simp only [State.turn, he, quietHost, scriptTurn]
  have hr : s.turn.rst = false := by rw [ht]; rfl
  have ha : s.acceptedWord = none := by simp only [State.acceptedWord, ht, scriptPause, ite_self]
  refine ⟨hr, idleTick s, ?_, hp, by simp only [idleTick, advance_env, ht]; rfl⟩
  rw [step_eq_tickOf hp (by rw [ht]; rfl), tickOf, if_neg (by simp [hr]), ha]

/-- Under a quiet host there is a run of every length, without reset. -/
theorem quiet_run {s : State} (hp : paramsOk s.par = true) (he : s.env = quietHost) (k : Nat) :
    NoReset k s ∧ ∃ u, After k s u := by
  have keep : ∀ j u, After j s u → paramsOk u.par = true ∧ u.env = quietHost := fun j u h =>
    run_invariant (fun v => paramsOk v.par = true ∧ v.env = quietHost)
      (fun v w hv hw => by
        obtain ⟨-, t, ht, h2⟩ := quiet_step hv.1 hv.2
        rw [hw] at ht; cases ht; exact h2) j s u ⟨hp, he⟩ h
  refine ⟨fun j _ u hu => (quiet_step (keep j u hu).1 (keep j u hu).2).1, ?_⟩
  induction k with
  | zero => exact ⟨s, after_zero.2 rfl⟩
  | succ k ih =>
    obtain ⟨u, hu⟩ := ih
    obtain ⟨-, t, ht, -⟩ := quiet_step (keep k u hu).1 (keep k u hu).2
    exact ⟨t, after_last.2 ⟨u, hu, ht⟩⟩

/-- Whether the first `k` ticks are without reset, by running them. -/
def calm : Nat → State → Bool
  | 0, _ => true
  | k + 1, s => !s.turn.rst && match step s with
    | .next t => calm k t
    | _ => true

theorem noReset_of_calm {k : Nat} : ∀ {s : State}, calm k s = true → NoReset k s := by
  induction k with
  | zero => intro s _ j hj; omega
  | succ k ih =>
    intro s h j hj u hu
    simp only [calm, Bool.and_eq_true, Bool.not_eq_true'] at h
    cases j with
    | zero => rw [after_zero] at hu; exact hu ▸ h.1
    | succ j =>
      obtain ⟨t, ht, hu⟩ := after_succ.1 hu
      have h2 := h.2
      rw [ht] at h2
      exact ih h2 j (by omega) u hu

/-- The state `rest` meets the invariant. -/
theorem rest_inv : Inv rest where
  params := by decide
  sidx := by decide
  queue := by decide
  padding := fun w h => by cases h
  engine := ⟨by decide, by decide⟩
  capA := ⟨rfl, by decide, by decide⟩
  capB := ⟨rfl, by decide, by decide⟩
  noFault _ := ⟨rfl, rfl⟩
  faulted h := by cases h
  presc := by decide
  time := by decide
  present h := by cases h

/-- One tick of a frame in flight: the last tick of a word, the next word in the queue, pixels still to push. -/
def inFlight : State := { atEnd with seq := .spush, sidx := 2, txq := [0x00000100] }

theorem inFlight_inv : Inv inFlight where
  params := by decide
  sidx := by decide
  queue := by decide
  padding := fun w h => by cases List.mem_singleton.1 h; decide
  engine := ⟨by decide, by decide⟩
  capA := ⟨rfl, by decide, by decide⟩
  capB := ⟨rfl, by decide, by decide⟩
  noFault _ := ⟨rfl, rfl⟩
  faulted h := by cases h
  presc := by decide
  time := by decide
  present h := by cases h

/-! ## Witnesses: encodings -/

theorem witness_EveryCommandDecodesFromItsWord : Instr.isCommand (.take .buttonB) = true := by decide
theorem witness_DecodedWordIsTheEncoding : decode 0x2000003F = .ok (.map 7 7) := by decide
theorem witness_DecodeFollowsMaskAndMatch : Instr.isCommand (.rdpx 31) = true := by decide

/-- Each clause of the list at its first value, and legal words just below. -/
theorem witness_IllegalWordsAreRejected :
    decode 0xB0000000 = .error .unusedOpcode ∧ decode 0xA1000000 = .error .reservedNibble ∧
    decode 0x80000001 = .error .operandBits ∧ decode 0x50000040 = .error .operandBits ∧
    decode 0x70000020 = .error .operandBits ∧ decode 0x90000002 = .error .operandBits ∧
    decode 0x5000003F = .ok (.plot 7 7) ∧ decode 0x7000001F = .ok (.rdpx 31) ∧
    decode 0x90000001 = .ok (.take .buttonB) ∧ decode 0x1FFFFFFF = .error .reservedNibble ∧
    decode 0x10FFFFFF = .ok (.enc 255 255 255) := by decide

theorem witness_WireWordLayoutAndDecoding :
    decodeWire 0xFFFFFF00 = some (.wireword 255 255 255) ∧ decodeWire 0x00000001 = none := by decide

/-! ## Witnesses: the step -/

/-- Illegal parameters; a tick that goes on; a free host; `RENDER 10`; a response that is not the expected one. -/
theorem witness_EveryTickHasANextState :
    paramsOk { Params.default with tLong := 8 } = false ∧ (paramsOk rest.par = true ∧ rest.turn.stop = none) ∧
    (∀ prog, State.reset.env ≠ .script prog) ∧
    step { rest with env := .script { font := fontExample, btnA := true, btnB := true, rest := [.render 10] } } =
      .refused (.renderDigit 10) ∧
    step { rest with env := .script { font := fontExample, btnA := true, btnB := true, rest := [.expect 1] } } =
      .fault (.expectation 1) ∧
    ¬(rest.rspV = true ∧ rest.rsp = 1) :=
  ⟨by decide, by decide, fun _ => Env.noConfusion, rfl, rfl, by decide⟩

theorem witness_StepRunsTheAcceptedCommand :
    let s := State.reset.withFetchWord 32 0x5000003F
    paramsOk s.par = true ∧ s.turn.stop = none ∧ s.acceptedWord = some 0x5000003F ∧
      decode 0x5000003F = .ok (.plot 7 7) := by decide

theorem witness_IllegalWordFaultsTheBlock :
    let s := State.reset.withFetchWord 32 0xB0000000
    paramsOk s.par = true ∧ s.turn.stop = none ∧ s.acceptedWord = some 0xB0000000 ∧
      decode 0xB0000000 = .error .unusedOpcode := by decide

theorem witness_UnacceptedOfferHasNoEffect :
    let i := pins false true 0x80000000
    (withPins i).env = .port [i] ∧ State.cmdReady { withPins i with seq := .swait } = false ∧
      (pins false false 0).cmdValid = false := by decide

/-- Accepted with everything ready, and not with any one of the four conditions missing. -/
theorem witness_AcceptanceRule :
    (withPins (pins false true 0x80000000)).env = .port [pins false true 0x80000000] ∧
    (withPins (pins false true 0x80000000)).acceptedWord = some 0x80000000 ∧
    (withPins (pins false false 0x80000000)).acceptedWord = none ∧
    (withPins (pins true true 0x80000000)).acceptedWord = none ∧
    State.acceptedWord { withPins (pins false true 0x80000000) with seq := .spush } = none ∧
    State.acceptedWord { withPins (pins false true 0x80000000) with fault := true } = none := by decide

theorem witness_ResetOverridesAll :
    let s : State := { withPins (pins true true 0x30000000) with seq := .spush, fault := true }
    paramsOk s.par = true ∧ s.turn.stop = none ∧ s.turn.rst = true := by decide

/-! ## Witnesses: the commands -/

theorem witness_NopWritesNothing :
    let i := pins false true 0
    paramsOk (withPins i).par = true ∧ (withPins i).env = .port [i] ∧ i.rst = false ∧ i.cmdValid = true ∧
      i.cmd = 0 := by decide

theorem witness_MapReturnsThePhysicalIndex : (4 : Coord).toNat ≤ 4 ∧ (0 : Coord).toNat ≤ 4 := by decide
theorem witness_PlotStoresOnePixel : (0 : Coord).toNat ≤ 4 ∧ (4 : Coord).toNat ≤ 4 := by decide
theorem witness_PutiStoresOnePixel : (24 : PixelIndex).toNat ≤ 24 := by decide
theorem witness_RdpxReturnsOnePixel : (24 : PixelIndex).toNat ≤ 24 := by decide

/-- Each of the four instructions at the first value out of range. -/
theorem witness_BadIndexFaultsTheBlock :
    (4 < (5 : Coord).toNat ∧ 24 < (25 : PixelIndex).toNat) ∧
    see State.fault (exec (.map 5 4) rest) = some true ∧ see State.fault (exec (.map 4 5) rest) = some true ∧
    see State.fault (exec (.plot 5 4) rest) = some true ∧ see State.fault (exec (.plot 4 5) rest) = some true ∧
    see State.fault (exec (.puti 25) rest) = some true ∧ see State.fault (exec (.rdpx 25) rest) = some true := by decide

/-! ## Witnesses: the line items -/

theorem witness_SymbolsBeginAtTheEndOfABit :
    atBitEnd rest.par rest.engine = true ∧ atBitEnd atEnd.par atEnd.engine = true ∧
      atBitEnd small { endEngine small with ph := 0 } = false := by decide

theorem witness_GapBeginsAtTheEndOfAWord :
    atWordEnd rest.par rest.engine = true ∧ atWordEnd atEnd.par atEnd.engine = true ∧
      atWordEnd small { endEngine small with bitCnt := 2 } = false := by decide

theorem witness_WireWordLoadsAtTheEndOfAWord :
    atWordEnd inFlight.par inFlight.engine = true ∧ inFlight.txq = encode (.wireword 0 0 1) :: [] ∧
      inFlight.txq.head? ≠ some (encode (.wireword 0 0 2)) ∧ atWordEnd small (Engine.afterReset) = false := by decide

/-- The three kinds of item the engine begins by itself. -/
theorem witness_EngineBeginsTheDecodedItem :
    (paramsOk atEnd.par = true ∧ atEnd.turn.stop = none ∧ atEnd.turn.rst = false ∧ atEnd.acceptedWord = none) ∧
    engineItem atEnd.par atEnd.engine atEnd.txq = some .reset ∧
    engineItem inFlight.par inFlight.engine inFlight.txq = some (.wireword 0 0 1) ∧
    engineItem rest.par { endEngine small with bitCnt := 2, sh := 0x40000000 } [] = some .sym1 ∧
    engineItem rest.par { endEngine small with bitCnt := 24, sh := 0x80000000 } [] = some .sym0 := by decide

theorem witness_SymbolWaveform :
    paramsOk atEnd.par = true ∧ atBitEnd atEnd.par atEnd.engine = true ∧
    ∃ t u, exec (symbolOf true) atEnd = .next t ∧ bitTicks small - 1 < bitTicks atEnd.par ∧
      NoReset (bitTicks small - 1) t ∧ After (bitTicks small - 1) t u := by
  refine ⟨by decide, by decide, symbolTick atEnd true, ?_⟩
  obtain ⟨h, u, hu⟩ := quiet_run (s := symbolTick atEnd true) (by decide) (by decide) (bitTicks small - 1)
  exact ⟨u, rfl, by decide, h, hu⟩

/-- The last tick of the last bit. -/
theorem witness_WireWordWaveform :
    paramsOk atEnd.par = true ∧ atWordEnd atEnd.par atEnd.engine = true ∧
    ∃ t u, exec (.wireword 1 2 3) atEnd = .next t ∧ 23 < 24 ∧ bitTicks small - 1 < bitTicks atEnd.par ∧
      NoReset (bitTicks atEnd.par * 23 + (bitTicks small - 1)) t ∧
      After (bitTicks atEnd.par * 23 + (bitTicks small - 1)) t u := by
  obtain ⟨t, ht⟩ := exec_answers (.wireword 1 2 3) atEnd
  obtain ⟨h, u, hu⟩ := quiet_run (s := t) (by cases ht; decide) (by cases ht; decide)
    (bitTicks atEnd.par * 23 + (bitTicks small - 1))
  exact ⟨by decide, by decide, t, u, ht, by decide, by decide, h, hu⟩

/-- The last tick of the gap and the first after it. -/
theorem witness_GapLastsTReset :
    paramsOk atEnd.par = true ∧ atWordEnd atEnd.par atEnd.engine = true ∧
    ∃ t u v, exec .reset atEnd = .next t ∧
      NoReset (atEnd.par.tReset - 1) t ∧ After (atEnd.par.tReset - 1) t u ∧ atEnd.par.tReset - 1 < atEnd.par.tReset ∧
      NoReset atEnd.par.tReset t ∧ After atEnd.par.tReset t v := by
  refine ⟨by decide, by decide, itemTick atEnd true (beginGap atEnd.engine, atEnd.txq), ?_⟩
  obtain ⟨h1, u, hu⟩ := quiet_run (s := itemTick atEnd true (beginGap atEnd.engine, atEnd.txq))
    (by decide) (by decide) (atEnd.par.tReset - 1)
  obtain ⟨h2, v, hv⟩ := quiet_run (s := itemTick atEnd true (beginGap atEnd.engine, atEnd.txq))
    (by decide) (by decide) atEnd.par.tReset
  exact ⟨u, v, rfl, h1, hu, by decide, h2, hv⟩

/-- The last tick of the last bit of the last pixel, and the last tick that must be low. -/
theorem witness_FrameWaveform :
    Inv rest ∧ rest.seq = .sidle ∧ rest.engine.eng = .idle ∧ rest.txq = [] ∧
    ∃ t u v, exec .tx rest = .next t ∧ 24 < 25 ∧ 23 < 24 ∧ bitTicks small - 1 < bitTicks rest.par ∧
      NoReset (3 + 24 * bitTicks rest.par * 24 + bitTicks rest.par * 23 + (bitTicks small - 1)) t ∧
      After (3 + 24 * bitTicks rest.par * 24 + bitTicks rest.par * 23 + (bitTicks small - 1)) t u ∧
      small.tReset + 2 < rest.par.tReset + 3 ∧ NoReset (3 + 600 * bitTicks rest.par + (small.tReset + 2)) t ∧
      After (3 + 600 * bitTicks rest.par + (small.tReset + 2)) t v := by
  refine ⟨rest_inv, by decide, by decide, by decide, { rest.advance true with seq := .swait }, ?_⟩
  obtain ⟨h1, u, hu⟩ := quiet_run (s := { rest.advance true with seq := .swait }) (by decide) (by decide)
    (3 + 24 * bitTicks rest.par * 24 + bitTicks rest.par * 23 + (bitTicks small - 1))
  obtain ⟨h2, v, hv⟩ := quiet_run (s := { rest.advance true with seq := .swait }) (by decide) (by decide)
    (3 + 600 * bitTicks rest.par + (small.tReset + 2))
  exact ⟨u, v, rfl, by decide, by decide, by decide, h1, hu, by decide, h2, hv⟩

/-! ## Witnesses: one tick of the units -/

/-- A tick under a quiet host with legal parameters has a next state. -/
theorem quiet_next {s : State} (hp : paramsOk s.par = true) (he : s.env = quietHost) :
    s.turn.rst = false ∧ ∃ t, step s = .next t :=
  ⟨(quiet_step hp he).1, (quiet_step hp he).2.imp fun _ h => h.1⟩

/-- A state for each clause: idle, waiting with the engine at rest, waiting for a word, pushing the last pixel, full. -/
theorem witness_SequencerRules :
    let wait : State := { rest with seq := .swait }
    let busy : State := { atEnd with seq := .swait }
    let push : State := { rest with seq := .spush, sidx := 24 }
    (rest.turn.rst = false ∧ ∃ t, step rest = .next t) ∧
    (wait.turn.rst = false ∧ (∃ t, step wait = .next t) ∧ wait.engine.eng = .idle ∧ wait.txq = []) ∧
    (busy.turn.rst = false ∧ (∃ t, step busy = .next t) ∧ ¬(busy.engine.eng = .idle ∧ busy.txq = [])) ∧
    (push.turn.rst = false ∧ (∃ t, step push = .next t) ∧ push.txq.length < push.par.txqDepth ∧ push.sidx ≤ 24) ∧
    (inFlight.turn.rst = false ∧ (∃ t, step inFlight = .next t) ∧ inFlight.seq = .spush ∧
      ¬ inFlight.txq.length < inFlight.par.txqDepth) :=
  ⟨quiet_next (by decide) (by decide), ⟨by decide, ⟨_, rfl⟩, by decide⟩, ⟨by decide, ⟨_, rfl⟩, by decide⟩,
    ⟨by decide, ⟨_, rfl⟩, by decide⟩, ⟨by decide, ⟨_, rfl⟩, by decide⟩⟩

/-- A tick that has a next state, without reset, in each of the engine's situations. -/
theorem witness_EngineRules :
    let first : State := { atEnd with engine := { endEngine small with ph := 0 } }
    let middle : State := { atEnd with engine := { endEngine small with bitCnt := 2 } }
    let gap : State := { State.reset with env := quietHost, engine := { restEngine with eng := .gap, gapCnt := 1998 } }
    let last : State := { State.reset with env := quietHost, engine := { restEngine with eng := .gap, gapCnt := 1999 } }
    let load : State := { rest with txq := [0x00000100] }
    (rest.turn.rst = false ∧ (∃ t, step rest = .next t) ∧ rest.engine.eng = .idle ∧ rest.txq = []) ∧
    (load.turn.rst = false ∧ (∃ t, step load = .next t) ∧ load.engine.eng = .idle ∧ load.txq = 0x00000100 :: []) ∧
    (inFlight.turn.rst = false ∧ (∃ t, step inFlight = .next t) ∧ inFlight.txq = 0x00000100 :: [] ∧
      inFlight.engine.eng = .shift ∧ inFlight.engine.ph = bitTicks inFlight.par - 1 ∧ inFlight.engine.bitCnt = 1) ∧
    (first.turn.rst = false ∧ (∃ t, step first = .next t) ∧ first.engine.eng = .shift ∧
      first.engine.ph < bitTicks first.par - 1) ∧
    (middle.turn.rst = false ∧ (∃ t, step middle = .next t) ∧ middle.engine.eng = .shift ∧
      middle.engine.ph = bitTicks middle.par - 1 ∧ 1 < middle.engine.bitCnt) ∧
    (atEnd.turn.rst = false ∧ (∃ t, step atEnd = .next t) ∧ atEnd.engine.eng = .shift ∧
      atEnd.engine.ph = bitTicks atEnd.par - 1 ∧ atEnd.engine.bitCnt = 1 ∧ atEnd.txq = []) ∧
    (gap.turn.rst = false ∧ (∃ t, step gap = .next t) ∧ gap.engine.eng = .gap ∧
      gap.engine.gapCnt < gap.par.tReset - 1) ∧
    (last.turn.rst = false ∧ (∃ t, step last = .next t) ∧ last.engine.eng = .gap ∧
      last.engine.gapCnt = last.par.tReset - 1) := by
  refine ⟨⟨by decide, ⟨_, rfl⟩, by decide⟩, ⟨by decide, ⟨_, rfl⟩, by decide⟩, ⟨by decide, ⟨_, rfl⟩, by decide⟩,
    ⟨by decide, ⟨_, rfl⟩, by decide⟩, ⟨by decide, ⟨_, rfl⟩, by decide⟩, ⟨by decide, ⟨_, rfl⟩, by decide⟩,
    ⟨by decide, ⟨_, rfl⟩, by decide⟩, ⟨by decide, ⟨_, rfl⟩, by decide⟩⟩

theorem witness_QueueRules : inFlight.turn.rst = false ∧ ∃ t, step inFlight = .next t :=
  quiet_next (by decide) (by decide)

theorem witness_FrameBufferIsStableWhileQueueing :
    inFlight.turn.rst = false ∧ inFlight.seq ≠ .sidle ∧ ∃ t, step inFlight = .next t :=
  ⟨by decide, by decide, _, rfl⟩

theorem witness_NoUnderrun :
    Inv inFlight ∧ Supplied inFlight ∧ (∃ t, step inFlight = .next t) ∧ inFlight.seq = .spush ∧
      inFlight.turn.rst = false ∧ inFlight.engine.eng = .shift ∧ atWordEnd inFlight.par inFlight.engine = true :=
  ⟨inFlight_inv, ⟨by decide, by decide, by decide⟩, ⟨_, rfl⟩, by decide, by decide, by decide, by decide⟩

/-- The last tick of a millisecond and the one before. -/
theorem witness_TimerRule :
    let last : State := { State.reset with env := quietHost, presc := 19999, timeMs := 0xFFFFFFFF }
    let before : State := { State.reset with env := quietHost, presc := 19998 }
    (last.turn.rst = false ∧ (∃ t, step last = .next t) ∧ last.presc = last.par.ticksPerMs - 1) ∧
    (before.turn.rst = false ∧ (∃ t, step before = .next t) ∧ before.presc ≠ before.par.ticksPerMs - 1) :=
  ⟨⟨by decide, ⟨_, rfl⟩, by decide⟩, ⟨by decide, ⟨_, rfl⟩, by decide⟩⟩

/-- A reset and two ticks after it. -/
def resetThenTwo : State := { rest with env := .port [pins true false 0, pins false false 0, pins false true 0x30000000] }

theorem witness_TimerRule_run :
    resetThenTwo.turn.rst = true ∧ ∃ t u, step resetThenTwo = .next t ∧ NoReset 2 t ∧ After 2 t u :=
  ⟨by decide, _, _, rfl, noReset_of_calm (by decide), rfl⟩

theorem witness_SynchronizerRule :
    rest.turn.rst = false ∧ (∃ t, step rest = .next t) ∧ (rest.cap .buttonA).sync.getLast? = some true ∧
      (rest.cap .buttonB).sync = [true, true] ∧
      (withPins (pins false false 0)).env = .port (pins false false 0 :: []) :=
  ⟨by decide, ⟨_, rfl⟩, by decide, by decide, by decide⟩

/-- A tick's pins with the given button levels and no offer. -/
def buttons (a b : Bool) : Inputs := { rst := false, cmdValid := false, cmd := 0, btnA := a, btnB := b }

/-- Both buttons released in one tick and pressed in the three that follow, with chains of `k` flops. -/
def pressing (k : Nat) : State :=
  { State.resetOf { small with syncStages := k } with
    env := .port [buttons true true, buttons false false, buttons false false, buttons false false] }

/-- The shortest chain, the default one, and one of three flops; either button. -/
theorem witness_FallingEdgeLatency :
    (∃ s1 u, 1 ≤ ((pressing 1).cap .buttonA).sync.length ∧ step (pressing 1) = .next s1 ∧
      (pressing 1).turn.rst = false ∧ NoReset 1 s1 ∧ After 1 s1 u ∧ ((pressing 1).cap .buttonA).sync.length = 1 ∧
      (pressing 1).turn.btn .buttonA = true ∧ s1.turn.btn .buttonA = false) ∧
    (∃ s1 u, step (pressing 2) = .next s1 ∧ (pressing 2).turn.rst = false ∧ NoReset 2 s1 ∧ After 2 s1 u ∧
      ((pressing 2).cap .buttonB).sync.length = 2 ∧ (pressing 2).turn.btn .buttonB = true ∧
      s1.turn.btn .buttonB = false) ∧
    (∃ s1 u, step (pressing 3) = .next s1 ∧ (pressing 3).turn.rst = false ∧ NoReset 3 s1 ∧ After 3 s1 u ∧
      ((pressing 3).cap .buttonA).sync.length = 3 ∧ (pressing 3).turn.btn .buttonA = true ∧
      s1.turn.btn .buttonA = false) :=
  ⟨⟨_, _, by decide, rfl, rfl, noReset_of_calm (by decide), rfl, rfl, rfl, rfl⟩,
    ⟨_, _, rfl, rfl, noReset_of_calm (by decide), rfl, rfl, rfl, rfl⟩,
    ⟨_, _, rfl, rfl, noReset_of_calm (by decide), rfl, rfl, rfl, rfl⟩⟩

/-- The samples 0 and then 1, a rising edge, of button A; 1 and 1 of button B. -/
def releasing : State := { rest with env := .port [buttons false true, buttons true true, buttons true true] }

theorem witness_FallingEdgeLatency_none :
    (releasing.cap .buttonA).sync.length = 2 ∧ (releasing.cap .buttonB).sync.length = 2 ∧
    ∃ s1 u, step releasing = .next s1 ∧ releasing.turn.rst = false ∧ NoReset 2 s1 ∧ After 2 s1 u ∧
      releasing.turn.btn .buttonA = false ∧ s1.turn.btn .buttonA = true ∧ releasing.turn.btn .buttonB = true ∧
      s1.turn.btn .buttonB = true :=
  ⟨by decide, by decide, _, _, rfl, rfl, noReset_of_calm (by decide), rfl, rfl, rfl, rfl, rfl⟩

/-- A capture unit with a falling edge. -/
def edge : Capture := { sync := [false, false], prev := true, pending := false, latV := false, lat := 0 }

theorem witness_AcceptRule :
    let first : State := { rest with capB := edge }
    (first.turn.rst = false ∧ (∃ t, step first = .next t) ∧ first.accepts .buttonB = true) ∧
    first.accepts .buttonA = false :=
  ⟨⟨by decide, ⟨_, rfl⟩, by decide⟩, by decide⟩

/-- Both clauses, across the clock's wrap. -/
theorem witness_WindowBoundary :
    let s (t : Word) : State :=
      { State.reset with
        capA := { edge with latV := true, lat := 0xFFFFFF9C }, capB := { edge with latV := true, lat := 1000 }
        timeMs := t }
    ((s 0).par.debounceMs = 200 ∧ (s 0).par.timeW = 32 ∧
      ∀ b ∈ [Button.buttonA, Button.buttonB], ((s 0).cap b).prev = true ∧ synced ((s 0).cap b) = false ∧
        ((s 0).cap b).pending = false ∧ ((s 0).cap b).latV = true) ∧
    (s 0x64).timeMs = ((s 0x64).cap .buttonA).lat + 200 ∧ (s 0x65).timeMs = ((s 0x65).cap .buttonA).lat + 201 ∧
    (s 1200).timeMs = ((s 1200).cap .buttonB).lat + 200 ∧ (s 1201).timeMs = ((s 1201).cap .buttonB).lat + 201 := by
  decide

/-- Set by an edge; cleared by a `TAKE`; cleared by reset. -/
theorem witness_PendingHasOneSetterAndOneClearer :
    let set : State := { rest with capA := edge }
    let take : State := { withPins (pins false true 0x90000000) with capA := { edge with pending := true } }
    let reset : State := { withPins (pins true false 0) with capA := { edge with pending := true } }
    (set.capA.pending = false ∧ see (fun t => t.capA.pending) (step set) = some true) ∧
    (take.capA.pending = true ∧ see (fun t => t.capA.pending) (step take) = some false) ∧
    (reset.capA.pending = true ∧ see (fun t => t.capA.pending) (step reset) = some false) := by decide

theorem witness_ButtonsAreIndependent :
    (withPins (pins false true 0x90000001)).env = .port [pins false true 0x90000001] ∧
    (∃ t, step (withPins (pins false true 0x90000001)) = .next t) ∧
    ∃ t, step { withPins (pins false true 0x90000001) with
      capB := edge, env := .port [{ pins false true 0x90000001 with btnB := false }] } = .next t :=
  ⟨by decide, ⟨_, rfl⟩, ⟨_, rfl⟩⟩

/-! ## Witnesses: over every instruction -/

theorem witness_WritersOfFrameBufferAndColour :
    let puti : State := { withPins (pins false true 0x60000018) with color := 1 }
    (puti.turn.rst = false ∧ (∃ t, step puti = .next t ∧ t.fb ≠ puti.fb)) ∧
    ((withPins (pins false true 0x40000001)).turn.rst = false ∧
      ∃ t, step (withPins (pins false true 0x40000001)) = .next t ∧
        t.color ≠ (withPins (pins false true 0x40000001)).color) :=
  ⟨⟨by decide, _, rfl, by decide⟩, ⟨by decide, _, rfl, by decide⟩⟩

theorem witness_ResponseRule :
    (withPins (pins true true 0xA0000000)).turn.rst = true ∧
    ((withPins (pins false true 0xA0000000)).turn.rst = false ∧
      see State.rspV (step (withPins (pins false true 0xA0000000))) = some true) ∧
    see State.rspV (step (withPins (pins true true 0xA0000000))) = some false ∧
    see State.rspV (step (withPins (pins false true 0x70000019))) = some false := by decide

theorem witness_FaultIsSticky :
    let s : State := { withPins (pins false true 0x30000000) with fault := true, cause := .badIndex, info := 0x60000019 }
    paramsOk s.par = true ∧ s.turn.stop = none ∧ s.fault = true ∧ s.turn.rst = false := by decide

/-- One state for each cause. -/
theorem witness_FaultsComeFromAcceptedWords :
    let illegal := withPins (pins false true 0x50000407)
    let range := withPins (pins false true 0x50000007)
    (illegal.turn.rst = false ∧ illegal.fault = false ∧ see State.fault (step illegal) = some true) ∧
    (range.turn.rst = false ∧ range.fault = false ∧ see State.fault (step range) = some true) := by decide

theorem witness_AbsentTransmitterNeverAccepts :
    let s : State := { State.resetOf { small with txPresent := false } with env := resetThenTwo.env }
    (s.par.txPresent = false ∧ s.turn.rst = true ∧ ∃ t u, step s = .next t ∧ After 2 t u) ∧
    (Absent s ∧ ∃ t, step { s with env := quietHost } = .next t ∧ Absent { s with env := quietHost }) ∧
    inFlight.turn.rst = false ∧ (∃ t, step inFlight = .next t) ∧ inFlight.cause ≠ .txUnavailable :=
  ⟨⟨by decide, by decide, _, _, rfl, rfl⟩,
    ⟨⟨rfl, rfl, rfl, rfl, rfl, by decide⟩, ⟨_, rfl, ⟨rfl, rfl, rfl, rfl, rfl, by decide⟩⟩⟩, by decide, ⟨_, rfl⟩, by decide⟩

theorem witness_ResetMeetsTheInvariant : paramsOk Params.default = true ∧ paramsOk small = true := by decide

theorem witness_EveryStepKeepsTheInvariant : Inv inFlight ∧ ∃ t, step inFlight = .next t := ⟨inFlight_inv, _, rfl⟩

/-! ## Witnesses: the reference host -/

theorem witness_ScalingTruncates :
    { Params.default with intensityQ8 := 256 }.intensityQ8 ≤ 256 ∧ Params.default.intensityQ8 = 128 := by decide

/-- The last time without a toggle and the first with one. -/
theorem witness_BlinkRule :
    let h := RefHost.start Params.default fontExample
    Params.default.blinkMs ≤ ((100 : Word).toNat + 2 ^ 32 - h.blinkLast.toNat) % 2 ^ 32 % 2 ^ Params.default.timeW ∧
    ¬ Params.default.blinkMs ≤ ((99 : Word).toNat + 2 ^ 32 - h.blinkLast.toNat) % 2 ^ 32 % 2 ^ Params.default.timeW := by
  decide

theorem witness_DispatchRule :
    let h := RefHost.start Params.default fontExample
    ({ h with wait := .time }.wait = .time ∧ { h with wait := .takeA }.wait = .takeA ∧
      { h with wait := .takeB }.wait = .takeB) ∧
    ({ h with todo := [.time] }.todo = .time :: [] ∧ { h with todo := [.take .buttonA] }.todo = .take .buttonA :: [] ∧
      { h with todo := [.take .buttonB] }.todo = .take .buttonB :: []) ∧
    (1 : Word).getLsbD 0 = true ∧ (0 : Word).getLsbD 0 = false := by decide

end Sys2Proof.Tests
end

section
/-! PROOF. The step answers, and where it stops (00_scope.md R10, R234, R278, R291; 30_encoding.md R100). -/

namespace Sys2Proof.Machine

/-- Settles O14: a tick of the units writes none of these registers but `RSPV`, field by field. -/
theorem unitsLeaveCommandRegisters : Obligations.UnitsLeaveCommandRegisters := fun s acc =>
  ⟨advance_fb s acc, advance_color s acc, advance_fault s acc, advance_cause s acc, advance_info s acc,
    advance_rsp s acc, advance_rspV s acc, advance_par s acc⟩

/-- A tick that the outside lets happen has a next state: reset, an accepted word of either kind, or neither. -/
theorem tickOf_answers (s : State) : ∃ t, tickOf s = .next t := by
  unfold tickOf
  split
  case isTrue => exact ⟨_, rfl⟩
  case isFalse =>
    split
    case h_1 w _ =>
      unfold runWord
      split
      case h_1 i _ => exact exec_answers i s
      case h_2 => exact ⟨_, rfl⟩
    case h_2 => exact ⟨_, rfl⟩

/-- A step of illegal parameters is refused. -/
theorem step_badParameters {s : State} (hp : paramsOk s.par = false) : step s = .refused .badParameters := by
  simp [step, tickChecked, hp]

/-- A step of legal parameters answers what its outside stops with. -/
theorem step_stopped {s : State} {why : Fault ⊕ Refusal} (hp : paramsOk s.par = true)
    (hs : s.turn.stop = some why) : step s = stopped why := by
  simp [step, tickChecked, hp, hs]

/-- Only a host program stops. -/
theorem turn_stop_of_not_script {s : State} (h : ∀ prog, s.env ≠ .script prog) : s.turn.stop = none := by
  unfold State.turn
  split
  case h_1 => rfl
  case h_2 => rfl
  case h_3 prog he => exact absurd he (h prog)

/-- The turn of a host program. -/
theorem turn_script {s : State} {prog : Script} (he : s.env = .script prog) :
    s.turn = scriptTurn s prog.font prog.rest prog.btnA prog.btnB := by
  simp [State.turn, he]

/-- A host program stops for a `RENDER` only where its digit is above 9: every line before it either takes the tick or
leaves it to the lines after it. -/
theorem scriptTurn_stop_render (s : State) (font : Font) (d : Nat) (lines : List Directive) (a b : Bool)
    (h : (scriptTurn s font lines a b).stop = some (.inr (.renderDigit d))) : 9 < d := by
  induction lines generalizing a b with
  | nil => cases h
  | cons line rest ih =>
    cases line with
    | word w => cases h
    | render n =>
      rw [scriptTurn] at h
      split at h
      case isTrue => cases h
      case isFalse hn => cases h; omega
    | idle k =>
      cases k with
      | zero => exact ih a b h
      | succ k => cases h
    | btn which v =>
      cases which with
      | buttonA => exact ih v b h
      | buttonB => exact ih a v h
    | untilReady | untilIdle | atMs | expect =>
      rw [scriptTurn] at h
      split at h
      case isTrue => exact ih a b h
      case isFalse => cases h

/-- The step is refused for a `RENDER` only where the outside stops for it. -/
theorem turn_stop_of_step_renderDigit {s : State} {d : Nat} (h : step s = .refused (.renderDigit d)) :
    s.turn.stop = some (.inr (.renderDigit d)) := by
  unfold step tickChecked at h
  split at h
  case isFalse => cases h
  case isTrue =>
    split at h
    case h_1 why hs =>
      cases why with
      | inl f => cases h
      | inr r => cases h; exact hs
    case h_2 =>
      obtain ⟨t, ht⟩ := tickOf_answers s
      rw [ht] at h; cases h

/-- Settles O7, clause by clause from what stops a step. -/
theorem everyTickHasANextState : Obligations.EveryTickHasANextState := by
  intro s
  refine ⟨step_badParameters, ?_, turn_stop_of_not_script, ?_, ?_, ?_⟩
  · intro hp hs
    obtain ⟨t, ht⟩ := tickOf_answers s
    exact ⟨t, (step_eq_tickOf hp hs).trans ht, trivial⟩
  · intro prog rest d hp he hl hd
    have hs : s.turn.stop = some (.inr (.renderDigit d)) := by
      simp [turn_script he, hl, scriptTurn, scriptStop, show ¬ d < 10 by omega]
    exact step_stopped hp hs
  · intro prog rest v hp he hl hv
    have hs : s.turn.stop = some (.inl (.expectation v)) := by
      simp [turn_script he, hl, scriptTurn, scriptStop, hv]
    exact step_stopped hp hs
  · intro d h
    have hs := turn_stop_of_step_renderDigit h
    by_cases he : ∃ prog, s.env = .script prog
    · obtain ⟨prog, he⟩ := he
      exact scriptTurn_stop_render s prog.font d prog.rest prog.btnA prog.btnB (turn_script he ▸ hs)
    · rw [turn_stop_of_not_script fun prog hp => he ⟨prog, hp⟩] at hs
      cases hs

end Sys2Proof.Machine
end

section
/-! PROOF. A bit on the wire (30_encoding.md R101; 43_transmitter.md R164, R170): what the engine does in each tick of
a word's bits, and runs that start some ticks after a state. -/

namespace Sys2Proof.Machine

/-! ## Runs that start later -/

/-- Induction over a run without reset from its tick number `a` on. -/
theorem run_induct_from (P : Nat → State → Prop) {a : Nat} {s : State}
    (h0 : ∀ v, NoReset a s → After a s v → P 0 v)
    (hs : ∀ k u v, P k u → u.turn.rst = false → step u = .next v → P (k + 1) v) (k : Nat) :
    ∀ u, NoReset (a + k) s → After (a + k) s u → P k u := by
  induction k with
  | zero => exact h0
  | succ k ih =>
    intro u hn h
    obtain ⟨t, ht, hu⟩ := after_last.1 h
    exact hs k t u (ih t (noReset_mono hn (Nat.le_succ _)) ht) (hn (a + k) (Nat.lt_succ_self _) t ht) hu

/-! ## The pin -/

theorem dout_of_shift {s : State} (h : s.engine.eng = .shift) :
    s.dout = decide (s.engine.ph < if s.engine.sh.getLsbD 31 then s.par.tLong else s.par.tShort) := by
  simp [State.dout, h]

theorem dout_of_not_shift {s : State} (h : s.engine.eng ≠ .shift) : s.dout = false := by
  simp [State.dout, h]

/-! ## One tick of the engine, by where it stands -/

section
variable {p : Params} {e : Engine}

theorem engineStep_inside_bit (q : List Word) (he : e.eng = .shift) (hp : e.ph + 1 < bitTicks p) :
    engineStep p e q = ({ e with ph := e.ph + 1 }, q) := by
  simp [engineStep, he, show e.ph < bitTicks p - 1 by omega]

theorem engineStep_bit_end (q : List Word) (he : e.eng = .shift) (hp : e.ph + 1 = bitTicks p) (hb : 1 < e.bitCnt) :
    engineStep p e q = (nextBit e, q) := by
  simp [engineStep, he, show e.ph = bitTicks p - 1 by omega, hb]

theorem engineStep_word_end (w : Word) (q : List Word) (he : e.eng = .shift) (hp : e.ph + 1 = bitTicks p)
    (hb : e.bitCnt = 1) : engineStep p e (w :: q) = (loadWord e w, q) := by
  simp [engineStep, he, show e.ph = bitTicks p - 1 by omega, hb]

theorem engineStep_frame_end (he : e.eng = .shift) (hp : e.ph + 1 = bitTicks p) (hb : e.bitCnt = 1) :
    engineStep p e [] = (beginGap e, []) := by
  simp [engineStep, he, show e.ph = bitTicks p - 1 by omega, hb]

theorem engineStep_inside_gap (q : List Word) (he : e.eng = .gap) (hg : e.gapCnt + 1 < p.tReset) :
    engineStep p e q = ({ e with gapCnt := e.gapCnt + 1 }, q) := by
  simp [engineStep, he, show e.gapCnt < p.tReset - 1 by omega]

theorem engineStep_gap_end (q : List Word) (he : e.eng = .gap) (hg : e.gapCnt + 1 = p.tReset) :
    engineStep p e q = ({ e with eng := .idle, gapCnt := 0 }, q) := by
  simp [engineStep, he, show e.gapCnt = p.tReset - 1 by omega]

theorem engineStep_idle_nil (he : e.eng = .idle) : engineStep p e [] = (e, []) := by
  simp [engineStep, he]

theorem engineStep_idle_cons (w : Word) (q : List Word) (he : e.eng = .idle) :
    engineStep p e (w :: q) = (loadWord e w, q) := by
  simp [engineStep, he]

end

/-! ## A symbol -/

/-- The engine is in tick `ph` of the symbol of `bit`. -/
structure InSymbol (bit : Bool) (ph : Nat) (e : Engine) : Prop where
  eng : e.eng = .shift
  ph : e.ph = ph
  bit : e.sh.getLsbD 31 = bit

theorem inSymbol_beginSymbol (e : Engine) (bit : Bool) : InSymbol bit 0 (beginSymbol e bit) where
  eng := rfl
  ph := rfl
  bit := by cases bit <;> simp [beginSymbol]

theorem InSymbol.next {p : Params} {e : Engine} {bit : Bool} {ph : Nat} (h : InSymbol bit ph e)
    (hp : ph + 1 < bitTicks p) (q : List Word) : InSymbol bit (ph + 1) (engineStep p e q).1 := by
  rw [engineStep_inside_bit q h.eng (by rw [h.ph]; exact hp)]
  exact ⟨h.eng, congrArg (· + 1) h.ph, h.bit⟩

/-- The pin in tick `ph` of a symbol (R101, R164). -/
theorem InSymbol.dout {s : State} {bit : Bool} {ph : Nat} (h : InSymbol bit ph s.engine) :
    s.dout = decide (ph < if bit then s.par.tLong else s.par.tShort) := by
  rw [dout_of_shift h.eng, h.ph, h.bit]

/-- The tick in which the engine begins a symbol, where one can begin. -/
theorem exec_symbolOf {bit : Bool} {s t : State} (hb : atBitEnd s.par s.engine = true)
    (h : exec (symbolOf bit) s = .next t) : t.par = s.par ∧ InSymbol bit 0 t.engine := by
  have ht : t = s.advanceWith false (beginSymbol s.engine bit, s.txq) := by
    cases bit <;> simpa [symbolOf, exec, execSym0, execSym1, symbolTick, itemTick, hb] using h.symm
  subst ht
  exact ⟨rfl, inSymbol_beginSymbol s.engine bit⟩

/-- Settles O32: from the tick in which it begins, the engine stays in the symbol for `T_BIT` ticks, and the pin
follows. -/
theorem symbolWaveform : Obligations.SymbolWaveform := by
  refine ⟨fun p => rfl, fun bit s t u k _ hb h hk hn hu => ?_⟩
  obtain ⟨hpar, hsym⟩ := exec_symbolOf hb h
  have run : u.par = s.par ∧ (k < bitTicks s.par → InSymbol bit k u.engine) := by
    refine run_induct (fun k u => u.par = s.par ∧ (k < bitTicks s.par → InSymbol bit k u.engine))
      ⟨hpar, fun _ => hsym⟩ ?_ k u hn hu
    rintro k u v ⟨hup, hus⟩ hr hv
    obtain ⟨hve, -, -, -, -, hvp, -⟩ := step_units hr hv
    refine ⟨hvp.trans hup, fun hk => ?_⟩
    rw [hve, hup]
    exact (hus (by omega)).next hk u.txq
  rw [(run.2 hk).dout, run.1]

end Sys2Proof.Machine
end

section
/-! PROOF. The waveform of a frame (43_transmitter.md R176, R177; 40_color_encoder.md R120): the words the sequencer
pushes reach the wire in order and without a gap, whatever the host does. -/

namespace Sys2Proof.Machine

/-! ## WireWords (R102, R120) -/

theorem wireWord_toNat (r g b : Channel) :
    (wireWord r g b).toNat = g.toNat * 2 ^ 24 + r.toNat * 2 ^ 16 + b.toNat * 2 ^ 8 := by
  have hr := r.isLt
  have hg := g.isLt
  have hb := b.isLt
  have h1 := or_eq_add (g.toNat * 2 ^ 24) (r.toNat * 2 ^ 16) 24 (by omega) ⟨g.toNat, by ring⟩
  have h2 := or_eq_add (g.toNat * 2 ^ 24 + r.toNat * 2 ^ 16) (b.toNat * 2 ^ 8) 16 (by omega)
    ⟨g.toNat * 2 ^ 8 + r.toNat, by ring⟩
  simp only [wireWord, BitVec.toNat_or, BitVec.toNat_shiftLeft, BitVec.toNat_setWidth, Nat.shiftLeft_eq]
  rw [show g.toNat % 2 ^ 32 * 2 ^ 24 % 2 ^ 32 = g.toNat * 2 ^ 24 by omega,
    show r.toNat % 2 ^ 32 * 2 ^ 16 % 2 ^ 32 = r.toNat * 2 ^ 16 by omega,
    show b.toNat % 2 ^ 32 * 2 ^ 8 % 2 ^ 32 = b.toNat * 2 ^ 8 by omega, h1, h2]

theorem red_toNat (c : Colour) : (red c).toNat = c.toNat / 2 ^ 16 := by
  have := c.isLt
  simp only [red, BitVec.extractLsb'_toNat, Nat.shiftRight_eq_div_pow]
  omega

theorem green_toNat (c : Colour) : (green c).toNat = c.toNat / 2 ^ 8 % 2 ^ 8 := by
  simp only [green, BitVec.extractLsb'_toNat, Nat.shiftRight_eq_div_pow]

theorem blue_toNat (c : Colour) : (blue c).toNat = c.toNat % 2 ^ 8 := by
  simp [blue]

/-- The WireWord of a colour by arithmetic (R120). -/
theorem wireOf_toNat (c : Colour) : (wireOf c).toNat =
    c.toNat / 2 ^ 8 % 2 ^ 8 * 2 ^ 24 + c.toNat / 2 ^ 16 * 2 ^ 16 + c.toNat % 2 ^ 8 * 2 ^ 8 := by
  rw [wireOf, wireWord_toNat, red_toNat, green_toNat, blue_toNat]

/-! ## A word on the wire -/

/-- The engine is in tick `p` of bit `j` of the word `w`, bit 0 being the first on the wire. -/
structure OnWire (w : Word) (j p : Nat) (e : Engine) : Prop where
  eng : e.eng = .shift
  sh : e.sh = w <<< j
  bitCnt : e.bitCnt + j = 24
  ph : e.ph = p

theorem onWire_loadWord (e : Engine) (w : Word) : OnWire w 0 0 (loadWord e w) where
  eng := rfl
  sh := (BitVec.shiftLeft_zero w).symm
  bitCnt := rfl
  ph := rfl

section
variable {par : Params} {w : Word} {j p : Nat} {e : Engine}

theorem OnWire.inside_bit (h : OnWire w j p e) (hp : p + 1 < bitTicks par) (q : List Word) :
    OnWire w j (p + 1) (engineStep par e q).1 ∧ (engineStep par e q).2 = q := by
  rw [engineStep_inside_bit q h.eng (by rw [h.ph]; exact hp)]
  exact ⟨⟨h.eng, h.sh, h.bitCnt, congrArg (· + 1) h.ph⟩, rfl⟩

theorem OnWire.bit_end (h : OnWire w j p e) (hp : p + 1 = bitTicks par) (hj : j + 1 < 24) (q : List Word) :
    OnWire w (j + 1) 0 (engineStep par e q).1 ∧ (engineStep par e q).2 = q := by
  have hb := h.bitCnt
  rw [engineStep_bit_end q h.eng (by rw [h.ph]; exact hp) (by omega)]
  refine ⟨⟨h.eng, ?_, ?_, rfl⟩, rfl⟩
  · rw [nextBit_eq, h.sh, BitVec.shiftLeft_add]
  · show e.bitCnt - 1 + (j + 1) = 24
    omega

theorem OnWire.word_end (h : OnWire w 23 p e) (hp : p + 1 = bitTicks par) (w' : Word) (q : List Word) :
    engineStep par e (w' :: q) = (loadWord e w', q) :=
  engineStep_word_end w' q h.eng (by rw [h.ph]; exact hp) (by have := h.bitCnt; omega)

theorem OnWire.frame_end (h : OnWire w 23 p e) (hp : p + 1 = bitTicks par) :
    engineStep par e [] = (beginGap e, []) :=
  engineStep_frame_end h.eng (by rw [h.ph]; exact hp) (by have := h.bitCnt; omega)

/-- The pin in tick `p` of bit `j` of a word: its symbol is that of bit `31 - j` (R103, R164). -/
theorem OnWire.dout {s : State} (h : OnWire w j p s.engine) :
    s.dout = decide (p < if w.getLsbD (31 - j) then s.par.tLong else s.par.tShort) := by
  have hj : j ≤ 31 := by have := h.bitCnt; omega
  rw [dout_of_shift h.eng, h.ph, h.sh, BitVec.getLsbD_shiftLeft]
  simp [hj]

end

/-! ## The words still to come -/

/-- The WireWords of a frame buffer, in the order in which a frame sends them (R176). -/
def frameWords (fb : Vector Colour nLed) : List Word := fb.toList.map wireOf

@[simp] theorem length_frameWords (fb : Vector Colour nLed) : (frameWords fb).length = 25 := by
  simp [frameWords]

theorem drop_frameWords (s : State) (i : Nat) (hi : i < 25) :
    (frameWords s.fb).drop i = wireOf (fbRead s i) :: (frameWords s.fb).drop (i + 1) := by
  rw [List.drop_eq_getElem_cons (by simpa using hi)]
  simp [frameWords, fbRead, hi]

/-- The queue of legal parameters holds at least one word. -/
theorem txqDepth_pos {p : Params} (h : paramsOk p = true) : 1 ≤ p.txqDepth := by
  obtain ⟨-, -, -, -, hdepth, -⟩ := paramsOk_facts h
  exact hdepth

/-- The words of the frame that the sequencer has yet to push. -/
def unpushed (s : State) : List Word := if s.seq = .spush then (frameWords s.fb).drop s.sidx else []

theorem unpushed_of_pushing {s : State} (h : s.seq = .spush) : unpushed s = (frameWords s.fb).drop s.sidx := if_pos h

theorem unpushed_of_not_pushing {s : State} (h : s.seq ≠ .spush) : unpushed s = [] := if_neg h

/-- The words the engine has yet to take: the queue, then those yet to be pushed. -/
def toCome (s : State) : List Word := s.txq ++ unpushed s

/-- Without reset a tick with a busy sequencer accepts nothing, so it is the units' own (R39). -/
theorem step_eq_idleTick_of_busy {s t : State} (hr : s.turn.rst = false) (hb : s.seq ≠ .sidle)
    (h : step s = .next t) : t = idleTick s := by
  obtain ⟨-, -, ⟨h1, -⟩ | ⟨-, w, i, hw, -⟩ | ⟨-, w, e, hw, -⟩ | ⟨-, -, ht⟩⟩ := step_cases h
  · simp [hr] at h1
  · exact absurd (accepted_ready hw).1 hb
  · exact absurd (accepted_ready hw).1 hb
  · exact ht

/-- Only a sequencer that pushes, or one that waits before an idle engine and an empty queue, pushes in the next
tick. -/
theorem not_pushing_step {s t : State} (hr : s.turn.rst = false) (h : step s = .next t) (hs : s.seq ≠ .spush)
    (hw : ¬(s.engine.eng = .idle ∧ s.txq = [])) : t.seq ≠ .spush ∧ (seqStep s).push = [] := by
  have hq : (seqStep s).seq ≠ .spush ∧ (seqStep s).push = [] := by
    obtain ⟨-, h1⟩ | ⟨-, h2, h3, -⟩ | ⟨-, -, h1⟩ | ⟨h1, -⟩ | ⟨h1, -⟩ := seqStep_cases s
    · simp [h1]
    · exact absurd ⟨h2, h3⟩ hw
    · simp [h1]
    · exact absurd h1 hs
    · exact absurd h1 hs
  refine ⟨?_, hq.2⟩
  rcases step_seq hr h with h1 | ⟨-, h1, -⟩
  · rw [h1]; exact hq.1
  · simp [h1]

/-- A tick with a pushing sequencer: either it pushes the next word, or the queue is full. -/
theorem pushing_step {s t : State} (hr : s.turn.rst = false) (h : step s = .next t) (hs : s.seq = .spush)
    (hi : s.sidx ≤ 24) :
    (t.seq = .spush → t.sidx ≤ 24) ∧ (seqStep s).push ++ unpushed t = unpushed s ∧
    ((seqStep s).push = [] → s.par.txqDepth ≤ s.txq.length) := by
  have ht := step_eq_idleTick_of_busy hr (by simp [hs]) h
  subst ht
  obtain ⟨h1, -⟩ | ⟨h1, -⟩ | ⟨h1, -⟩ | ⟨-, -, h1⟩ | ⟨-, hfull, h1⟩ := seqStep_cases s
  · simp [hs] at h1
  · simp [hs] at h1
  · simp [hs] at h1
  · rw [unpushed_of_pushing hs, drop_frameWords s s.sidx (by omega)]
    by_cases hlast : s.sidx = 24
    · simp [unpushed, idleTick, h1, hlast]
    · have hnext : s.sidx + 1 ≤ 24 := by omega
      simp [unpushed, idleTick, h1, hlast, hnext]
  · simp [unpushed, idleTick, h1, hs, hi, hfull]

/-! ## A frame on the wire -/

/-- The first word of `ws` is on the wire, in tick `p` of its bit `j`, and the others are still to come. While the
sequencer pushes, the queue is empty only in a word's first tick (R178). -/
structure Sending (par : Params) (ws : List Word) (j p : Nat) (s : State) : Prop where
  par : s.par = par
  line : ∃ w, OnWire w j p s.engine ∧ ws = w :: toCome s
  sidx : s.seq = .spush → s.sidx ≤ 24
  supplied : s.seq = .spush → s.txq = [] → j = 0 ∧ p = 0

section
variable {par : Params} {ws : List Word} {j p : Nat} {s t : State}

/-- While a word is on the wire, what is to come changes only by the word the engine takes. -/
theorem Sending.step_toCome (h : Sending par ws j p s) (hr : s.turn.rst = false) (hst : step s = .next t) :
    (t.seq = .spush → t.sidx ≤ 24) ∧ toCome t = (engineStep s.par s.engine s.txq).2 ++ unpushed s := by
  obtain ⟨w, hw, -⟩ := h.line
  obtain ⟨-, htxq, -⟩ := step_units hr hst
  rw [toCome, htxq, List.append_assoc]
  by_cases hs : s.seq = .spush
  · obtain ⟨h1, h2, -⟩ := pushing_step hr hst hs (h.sidx hs)
    exact ⟨h1, by rw [h2]⟩
  · obtain ⟨h1, h2⟩ := not_pushing_step hr hst hs (by simp [hw.eng])
    exact ⟨fun h3 => absurd h3 h1, by rw [h2, unpushed_of_not_pushing h1, unpushed_of_not_pushing hs]; rfl⟩

/-- A tick in which the engine takes no word and goes on to tick `p'` of bit `j'`. -/
theorem Sending.go_on (h : Sending par ws j p s) (hp : paramsOk par = true) (hr : s.turn.rst = false)
    (hst : step s = .next t) {j' p' : Nat}
    (hgo : ∀ w, OnWire w j p s.engine → OnWire w j' p' (engineStep par s.engine s.txq).1 ∧
      (engineStep par s.engine s.txq).2 = s.txq) : Sending par ws j' p' t := by
  obtain ⟨w, hw, hws⟩ := h.line
  obtain ⟨hw', hkept⟩ := hgo w hw
  obtain ⟨heng, htxq, -, -, -, hpar, -⟩ := step_units hr hst
  obtain ⟨hsidx, hcome⟩ := h.step_toCome hr hst
  rw [h.par] at heng htxq hcome hpar
  rw [hkept] at htxq hcome
  refine ⟨hpar, ⟨w, heng ▸ hw', by rw [hcome, hws]; rfl⟩, hsidx, fun hseq hnil => ?_⟩
  obtain ⟨hq, hpush⟩ := List.append_eq_nil_iff.1 (htxq ▸ hnil)
  have hs : s.seq = .spush := by
    by_contra hs
    exact (not_pushing_step hr hst hs (by simp [hw.eng])).1 hseq
  have hfull := (pushing_step hr hst hs (h.sidx hs)).2.2 hpush
  rw [hq, h.par, List.length_nil] at hfull
  exact absurd (txqDepth_pos hp) (by omega)

theorem Sending.inside_bit (h : Sending par ws j p s) (hp : paramsOk par = true) (hr : s.turn.rst = false)
    (hst : step s = .next t) (hph : p + 1 < bitTicks par) : Sending par ws j (p + 1) t :=
  h.go_on hp hr hst fun _ hw => hw.inside_bit hph s.txq

theorem Sending.bit_end (h : Sending par ws j p s) (hp : paramsOk par = true) (hr : s.turn.rst = false)
    (hst : step s = .next t) (hph : p + 1 = bitTicks par) (hj : j + 1 < 24) : Sending par ws (j + 1) 0 t :=
  h.go_on hp hr hst fun _ hw => hw.bit_end hph hj s.txq

/-- At the end of a word with others to come, the next one waits in the queue (R178), and the engine takes it. -/
theorem Sending.word_end {w : Word} (h : Sending par (w :: ws) 23 p s) (hws : ws ≠ []) (hr : s.turn.rst = false)
    (hst : step s = .next t) (hph : p + 1 = bitTicks par) : Sending par ws 0 0 t := by
  obtain ⟨_, hw, hcons⟩ := h.line
  obtain ⟨-, hrest⟩ := List.cons.inj hcons
  obtain ⟨heng, htxq, -, -, -, hpar, -⟩ := step_units hr hst
  obtain ⟨hsidx, hcome⟩ := h.step_toCome hr hst
  rw [h.par] at heng hcome hpar
  obtain ⟨w', q, hq⟩ : ∃ w' q, s.txq = w' :: q := by
    refine List.exists_cons_of_ne_nil fun hnil => ?_
    by_cases hs : s.seq = .spush
    · exact absurd (h.supplied hs hnil).1 (by decide)
    · exact hws (by rw [hrest, toCome, hnil, unpushed_of_not_pushing hs]; rfl)
  rw [hq, hw.word_end hph] at heng hcome
  refine ⟨hpar, ⟨w', heng ▸ onWire_loadWord s.engine w', ?_⟩, hsidx, fun _ _ => ⟨rfl, rfl⟩⟩
  rw [hrest, hcome, toCome, hq]
  rfl

end

/-- The run of a frame: `24 * T_BIT` ticks for each word, `T_BIT` for each bit. -/
theorem sending_run {par : Params} {ws : List Word} {a : Nat} {t : State} (hp : paramsOk par = true)
    (h0 : ∀ v, NoReset a t → After a t v → Sending par ws 0 0 v) (i j p : Nat) (u : State) (hi : i < ws.length)
    (hj : j < 24) (hph : p < bitTicks par) (hn : NoReset (a + (24 * bitTicks par * i + bitTicks par * j + p)) t)
    (hu : After (a + (24 * bitTicks par * i + bitTicks par * j + p)) t u) : Sending par (ws.drop i) j p u := by
  refine run_induct_from (fun k u => ∀ i j p, i < ws.length → j < 24 → p < bitTicks par →
    k = 24 * bitTicks par * i + bitTicks par * j + p → Sending par (ws.drop i) j p u)
    ?base ?step _ u hn hu i j p hi hj hph rfl
  case base =>
    intro v hnv hv i j p _ _ _ hk
    obtain ⟨hij, rfl⟩ : 24 * bitTicks par * i + bitTicks par * j = 0 ∧ p = 0 := by omega
    have hB : bitTicks par ≠ 0 := by have := three_le_bitTicks hp; omega
    obtain ⟨rfl, rfl⟩ : i = 0 ∧ j = 0 := by simpa [hB] using hij
    exact h0 v hnv hv
  case step =>
    intro k u v ih hr hv i j p hi hj hph hk
    match i, j, p with
    | i, j, p + 1 => exact (ih i j p hi hj (by omega) (by omega)).inside_bit hp hr hv hph
    | i, j + 1, 0 =>
      rw [Nat.mul_succ] at hk
      exact (ih i j (bitTicks par - 1) hi (by omega) (by omega) (by omega)).bit_end hp hr hv (by omega) hj
    | i + 1, 0, 0 =>
      rw [Nat.mul_succ] at hk
      have h := ih i 23 (bitTicks par - 1) (by omega) (by omega) (by omega) (by omega)
      rw [List.drop_eq_getElem_cons (by omega)] at h
      exact h.word_end (by simpa using hi) hr hv (by omega)
    | 0, 0, 0 => omega

/-! ## Before the frame -/

/-- The sequencer has pushed `n` words of the frame `fb`, 0 or 1, and the engine has taken none. -/
structure Starting (par : Params) (fb : Vector Colour nLed) (n : Nat) (s : State) : Prop where
  par : s.par = par
  frame : s.fb = fb
  seq : s.seq = .spush
  sidx : s.sidx = n
  eng : s.engine.eng = .idle
  txq : s.txq = (frameWords fb).take n

/-- A waiting sequencer before an idle engine and an empty queue begins the frame (R166). -/
theorem starting_of_waiting {s t : State} (hseq : s.seq = .swait) (heng : s.engine.eng = .idle) (htxq : s.txq = [])
    (hr : s.turn.rst = false) (hst : step s = .next t) : Starting s.par s.fb 0 t := by
  have ht := step_eq_idleTick_of_busy hr (by simp [hseq]) hst
  have hq : seqStep s = { seq := .spush, sidx := 0, push := [] } := by simp [seqStep, hseq, heng, htxq]
  subst ht
  exact ⟨rfl, rfl, by simp [idleTick, hq], by simp [idleTick, hq],
    by simp [idleTick, htxq, engineStep_idle_nil heng, heng],
    by simp [idleTick, htxq, engineStep_idle_nil heng, hq]⟩

section
variable {par : Params} {fb : Vector Colour nLed} {s t : State}

/-- The sequencer pushes the frame's first word (R167). -/
theorem Starting.first_push (h : Starting par fb 0 s) (hp : paramsOk par = true) (hr : s.turn.rst = false)
    (hst : step s = .next t) : Starting par fb 1 t := by
  have ht := step_eq_idleTick_of_busy hr (by simp [h.seq]) hst
  have htxq : s.txq = [] := h.txq
  have hdepth : 0 < s.par.txqDepth := by rw [h.par]; exact txqDepth_pos hp
  have hq : seqStep s = { seq := .spush, sidx := 1, push := [wireOf (fbRead s 0)] } := by
    simp [seqStep, h.seq, htxq, hdepth, h.sidx]
  have hw : (frameWords fb).take 1 = [wireOf (fbRead s 0)] := by
    rw [← List.drop_zero (l := frameWords fb), ← h.frame, drop_frameWords s 0 (by omega)]
    rfl
  subst ht
  exact ⟨h.par, h.frame, by simp [idleTick, hq], by simp [idleTick, hq],
    by simp [idleTick, htxq, engineStep_idle_nil h.eng, h.eng],
    by simp [idleTick, htxq, engineStep_idle_nil h.eng, hq, hw]⟩

/-- The engine takes the frame's first word (R168). -/
theorem Starting.first_load (h : Starting par fb 1 s) (hr : s.turn.rst = false) (hst : step s = .next t) :
    Sending par (frameWords fb) 0 0 t := by
  obtain ⟨heng, htxq, -, -, -, hpar, -⟩ := step_units hr hst
  obtain ⟨hsidx, hcome, -⟩ := pushing_step hr hst h.seq (by rw [h.sidx]; omega)
  have hfw : frameWords fb = wireOf (fbRead s 0) :: (frameWords fb).drop 1 := by
    have := drop_frameWords s 0 (by omega)
    rwa [h.frame, List.drop_zero] at this
  have hq : s.txq = [wireOf (fbRead s 0)] := by rw [h.txq, hfw]; rfl
  rw [hq, engineStep_idle_cons _ _ h.eng] at heng htxq
  refine ⟨hpar.trans h.par, ⟨wireOf (fbRead s 0), heng ▸ onWire_loadWord s.engine _, ?_⟩, hsidx,
    fun _ _ => ⟨rfl, rfl⟩⟩
  rw [toCome, htxq, List.append_assoc, hcome, unpushed_of_pushing h.seq, h.sidx, h.frame]
  exact hfw

end

/-- Three ticks after the sequencer began to wait, the first word is on the wire. -/
theorem sending_after_three {t v : State} (hp : paramsOk t.par = true) (hseq : t.seq = .swait)
    (heng : t.engine.eng = .idle) (htxq : t.txq = []) (hn : NoReset 3 t) (hv : After 3 t v) :
    Sending t.par (frameWords t.fb) 0 0 v := by
  obtain ⟨t2, ht2, hstep3⟩ := after_last.1 hv
  obtain ⟨t1, ht1, hstep2⟩ := after_last.1 ht2
  obtain ⟨t0, ht0, hstep1⟩ := after_last.1 ht1
  obtain rfl := after_zero.1 ht0
  have h0 := starting_of_waiting hseq heng htxq (hn 0 (by decide) _ ht0) hstep1
  have h1 := h0.first_push hp (hn 1 (by decide) _ ht1) hstep2
  exact h1.first_load (hn 2 (by decide) _ ht2) hstep3

/-! ## After the frame -/

/-- `q` ticks after the end of a frame, `q` up to `T_RESET + 2`: the gap, its end, and two ticks in which a frame that
waits can begin to be pushed. -/
inductive LowAfterFrame (par : Params) : Nat → State → Prop
  | gap {s : State} (eng : s.engine.eng = .gap) (gapCnt : s.engine.gapCnt < par.tReset) (txq : s.txq = [])
      (seq : s.seq ≠ .spush) : LowAfterFrame par s.engine.gapCnt s
  | gapOver {s : State} (eng : s.engine.eng = .idle) (txq : s.txq = []) (seq : s.seq ≠ .spush) :
      LowAfterFrame par par.tReset s
  | mayPush {s : State} (eng : s.engine.eng = .idle) (txq : s.txq = []) : LowAfterFrame par (par.tReset + 1) s
  | mayLoad {s : State} (eng : s.engine.eng = .idle) : LowAfterFrame par (par.tReset + 2) s

theorem LowAfterFrame.dout {par : Params} {q : Nat} {s : State} (h : LowAfterFrame par q s) : s.dout = false := by
  apply dout_of_not_shift
  cases h with
  | gap eng => simp [eng]
  | gapOver eng | mayPush eng | mayLoad eng => simp [eng]

/-- The last word's last tick leads to the gap: nothing waits, and the sequencer has no more to push (R172). -/
theorem Sending.frame_end {par : Params} {w : Word} {p : Nat} {s t : State} (h : Sending par [w] 23 p s)
    (hp : paramsOk par = true) (hr : s.turn.rst = false) (hst : step s = .next t) (hph : p + 1 = bitTicks par) :
    t.par = par ∧ LowAfterFrame par 0 t := by
  obtain ⟨_, hw, hcons⟩ := h.line
  obtain ⟨htxq, hnone⟩ := List.append_eq_nil_iff.1 (List.cons.inj hcons).2.symm
  have hs : s.seq ≠ .spush := by
    intro hs
    rw [unpushed_of_pushing hs, List.drop_eq_nil_iff, length_frameWords] at hnone
    have := h.sidx hs
    omega
  obtain ⟨hteng, httxq, -, -, -, hpar, -⟩ := step_units hr hst
  obtain ⟨htseq, hpush⟩ := not_pushing_step hr hst hs (by simp [hw.eng])
  rw [h.par, htxq, hw.frame_end hph] at hteng httxq
  have hcnt : t.engine.gapCnt = 0 := by rw [hteng]; rfl
  have hlow : LowAfterFrame par t.engine.gapCnt t :=
    .gap (by rw [hteng]; rfl) (by rw [hcnt]; exact tReset_pos hp) (by rw [httxq, hpush]; rfl) htseq
  exact ⟨hpar.trans h.par, hcnt ▸ hlow⟩

/-- The line stays low from tick to tick (R173, R174); only an idle engine lets a waiting sequencer begin, and only a
pushed word lets the engine begin. -/
theorem LowAfterFrame.next {par : Params} {q : Nat} {s t : State} (h : LowAfterFrame par q s) (hpar : s.par = par)
    (hq : q + 1 < par.tReset + 3) (hr : s.turn.rst = false) (hst : step s = .next t) :
    LowAfterFrame par (q + 1) t := by
  obtain ⟨heng, htxq, -⟩ := step_units hr hst
  rw [hpar] at heng htxq
  cases h with
  | gap eng gapCnt txq seq =>
    obtain ⟨htseq, hpush⟩ := not_pushing_step hr hst seq (by simp [eng])
    by_cases hlast : s.engine.gapCnt + 1 = par.tReset
    · rw [txq, engineStep_gap_end [] eng hlast] at heng htxq
      rw [hlast]
      exact .gapOver (by rw [heng]) (by rw [htxq, hpush]; rfl) htseq
    · rw [txq, engineStep_inside_gap [] eng (by omega)] at heng htxq
      have hcnt : t.engine.gapCnt = s.engine.gapCnt + 1 := by rw [heng]
      rw [← hcnt]
      exact .gap (by rw [heng]; exact eng) (by omega) (by rw [htxq, hpush]; rfl) htseq
  | gapOver eng txq seq =>
    rw [txq, engineStep_idle_nil eng] at heng htxq
    have hpush : (seqStep s).push = [] := by
      obtain ⟨-, h1⟩ | ⟨-, -, -, h1⟩ | ⟨-, -, h1⟩ | ⟨h1, -⟩ | ⟨h1, -⟩ := seqStep_cases s
      · rw [h1]
      · rw [h1]
      · rw [h1]
      · exact absurd h1 seq
      · exact absurd h1 seq
    exact .mayPush (heng ▸ eng) (by rw [htxq, hpush]; rfl)
  | mayPush eng txq =>
    rw [txq, engineStep_idle_nil eng] at heng
    exact .mayLoad (heng ▸ eng)
  | mayLoad => omega

/-! ## The whole frame -/

/-- The tick of `TX` before an idle engine and an empty queue (R161): the sequencer waits, nothing else has begun. -/
theorem exec_tx_at_rest {s t : State} (heng : s.engine.eng = .idle) (htxq : s.txq = []) (hseq : s.seq = .sidle)
    (h : exec .tx s = .next t) :
    t.par = s.par ∧ t.fb = s.fb ∧ t.seq = .swait ∧ t.engine.eng = .idle ∧ t.txq = [] := by
  cases h
  have hpush : (seqStep s).push = [] := by simp [seqStep, hseq]
  refine ⟨rfl, rfl, rfl, ?_, ?_⟩
  · show (engineStep s.par s.engine s.txq).1.eng = .idle
    rw [htxq, engineStep_idle_nil heng, heng]
  · show (engineStep s.par s.engine s.txq).2 ++ (seqStep s).push = []
    rw [htxq, engineStep_idle_nil heng, hpush]
    rfl

/-- Settles O35: three ticks to the first load, then `sending_run`, whose last tick leads to the gap. -/
theorem frameWaveform : Obligations.FrameWaveform := by
  refine ⟨wireOf_toNat, fun s t hinv hseq heng htxq htx => ?_⟩
  obtain ⟨hpar, hfb, htseq, hteng, httxq⟩ := exec_tx_at_rest heng htxq hseq htx
  have hp := hinv.params
  have hstart : ∀ v, NoReset 3 t → After 3 t v → Sending s.par (frameWords s.fb) 0 0 v := by
    rw [← hpar] at hp ⊢
    rw [← hfb]
    exact fun v => sending_after_three hp htseq hteng httxq
  constructor
  · intro i j p hi u hj hph hn hu
    rw [Nat.add_assoc, Nat.add_assoc, ← Nat.add_assoc (24 * _ * i)] at hn hu
    have h := sending_run hp hstart i j p u (by simpa using hi) hj hph hn hu
    obtain ⟨w, hw, hline⟩ := h.line
    rw [drop_frameWords s i hi] at hline
    obtain ⟨rfl, -⟩ := List.cons.inj hline
    rw [hw.dout, h.par]
    simp [fbRead, hi]
  · intro q u hq hn hu
    have h3 := three_le_bitTicks hp
    have hlow : u.par = s.par ∧ (q < s.par.tReset + 3 → LowAfterFrame s.par q u) := by
      refine run_induct_from (a := 3 + 600 * bitTicks s.par)
        (fun q u => u.par = s.par ∧ (q < s.par.tReset + 3 → LowAfterFrame s.par q u)) ?base ?step q u hn hu
      case base =>
        intro v hnv hv
        have hk : 3 + 600 * bitTicks s.par =
            3 + (24 * bitTicks s.par * 24 + bitTicks s.par * 23 + (bitTicks s.par - 1)) + 1 := by omega
        rw [hk] at hnv hv
        obtain ⟨v', hv', hst⟩ := after_last.1 hv
        have h := sending_run hp hstart 24 23 (bitTicks s.par - 1) v' (by simp) (by decide) (by omega)
          (noReset_mono hnv (Nat.le_succ _)) hv'
        rw [drop_frameWords s 24 (by decide), List.drop_eq_nil_of_le (by simp)] at h
        obtain ⟨h1, h2⟩ := h.frame_end hp (hnv _ (Nat.lt_succ_self _) v' hv') hst (by omega)
        exact ⟨h1, fun _ => h2⟩
      case step =>
        rintro q u v ⟨hup, hlow⟩ hr hst
        obtain ⟨-, -, -, -, -, hvp, -⟩ := step_units hr hst
        exact ⟨hvp.trans hup, fun hq => (hlow (by omega)).next hup hq hr hst⟩
    exact (hlow.2 hq).dout

end Sys2Proof.Machine
end

section
/-! PROOF. The registers that only commands write, and acceptance (10_state.md R21, R22, R31, R39; 30_encoding.md R92,
R96): what a valid command and one with an operand out of range do, and what every tick without reset leaves. -/

namespace Sys2Proof.Machine

/-! ## Commands with a range check (R274) -/

theorem badCoords_eq (x y : Coord) : badCoords x y = !coordsValid x y := by
  revert x y; decide

theorem badIndex_eq (idx : PixelIndex) : badIndex idx = !indexValid idx := by
  revert idx; decide

/-- An instruction with an operand out of range faults with `BAD_INDEX`. -/
theorem exec_of_illFormed {i : Instr} (s : State) (h : i.wellFormed = false) :
    exec i s = .next (raiseFault s .badIndex (encode i)) := by
  cases i with
  | map x y | plot x y =>
    have hbad : badCoords x y = true := by rw [badCoords_eq]; exact congrArg (!·) h
    exact if_pos hbad
  | puti idx | rdpx idx =>
    have hbad : badIndex idx = true := by rw [badIndex_eq]; exact congrArg (!·) h
    exact if_pos hbad
  | nop | enc | clr | col | tx | take | time | sym0 | sym1 | reset | wireword => cases h

section
variable (s : State) {x y : Coord} {idx : PixelIndex}

theorem exec_map_of_wellFormed (h : (Instr.map x y).wellFormed = true) :
    exec (.map x y) s = .next (respond (s.advance true) (BitVec.ofNat 32 (physicalIndex x.toNat y.toNat))) :=
  if_neg (by rw [badCoords_eq, show coordsValid x y = true from h]; decide)

theorem exec_plot_of_wellFormed (h : (Instr.plot x y).wellFormed = true) :
    exec (.plot x y) s = .next (fbWrite (s.advance true) (physicalIndex x.toNat y.toNat) s.color) :=
  if_neg (by rw [badCoords_eq, show coordsValid x y = true from h]; decide)

theorem exec_puti_of_wellFormed (h : (Instr.puti idx).wellFormed = true) :
    exec (.puti idx) s = .next (fbWrite (s.advance true) idx.toNat s.color) :=
  if_neg (by rw [badIndex_eq, show indexValid idx = true from h]; decide)

theorem exec_rdpx_of_wellFormed (h : (Instr.rdpx idx).wellFormed = true) :
    exec (.rdpx idx) s = .next (respond (s.advance true) ((fbRead s idx.toNat).setWidth 32)) :=
  if_neg (by rw [badIndex_eq, show indexValid idx = true from h]; decide)

end

/-! ## What a command leaves in the registers that only commands write -/

section
variable {i : Instr} {s t : State}

/-- The commands that write the frame buffer (R21). -/
theorem exec_command_fb (hi : i.isCommand = true) (h : exec i s = .next t) :
    t.fb = s.fb ∨ i = .clr ∨ (∃ x y, i = .plot x y) ∨ ∃ idx, i = .puti idx := by
  cases hw : i.wellFormed with
  | false => rw [exec_of_illFormed s hw] at h; cases h; exact .inl rfl
  | true =>
    cases i with
    | clr => exact .inr (.inl rfl)
    | plot x y => exact .inr (.inr (.inl ⟨x, y, rfl⟩))
    | puti idx => exact .inr (.inr (.inr ⟨idx, rfl⟩))
    | map => rw [exec_map_of_wellFormed s hw] at h; cases h; exact .inl rfl
    | rdpx => rw [exec_rdpx_of_wellFormed s hw] at h; cases h; exact .inl rfl
    | take b => cases h; exact .inl (setPending_fb _ b _)
    | nop | enc | col | tx | time => cases h; exact .inl rfl
    | sym0 | sym1 | reset | wireword => cases hi

/-- The command that writes `COLOR` (R22). -/
theorem exec_command_color (hi : i.isCommand = true) (h : exec i s = .next t) :
    t.color = s.color ∨ ∃ r g b, i = .col r g b := by
  cases hw : i.wellFormed with
  | false => rw [exec_of_illFormed s hw] at h; cases h; exact .inl rfl
  | true =>
    cases i with
    | col r g b => exact .inr ⟨r, g, b, rfl⟩
    | map => rw [exec_map_of_wellFormed s hw] at h; cases h; exact .inl rfl
    | plot => rw [exec_plot_of_wellFormed s hw] at h; cases h; exact .inl rfl
    | puti => rw [exec_puti_of_wellFormed s hw] at h; cases h; exact .inl rfl
    | rdpx => rw [exec_rdpx_of_wellFormed s hw] at h; cases h; exact .inl rfl
    | take b => cases h; exact .inl (setPending_color _ b _)
    | nop | enc | clr | tx | time => cases h; exact .inl rfl
    | sym0 | sym1 | reset | wireword => cases hi

/-- The response registers after a command (R31, R96). -/
theorem exec_command_rsp (hi : i.isCommand = true) (h : exec i s = .next t) :
    t.rspV = (returnsValue i && i.wellFormed) ∧ (t.rspV = false → t.rsp = s.rsp) := by
  cases hw : i.wellFormed with
  | false => rw [exec_of_illFormed s hw] at h; cases h; exact ⟨(Bool.and_false _).symm, fun _ => rfl⟩
  | true =>
    cases i with
    | map => rw [exec_map_of_wellFormed s hw] at h; cases h; exact ⟨rfl, nofun⟩
    | rdpx => rw [exec_rdpx_of_wellFormed s hw] at h; cases h; exact ⟨rfl, nofun⟩
    | plot => rw [exec_plot_of_wellFormed s hw] at h; cases h; exact ⟨rfl, fun _ => rfl⟩
    | puti => rw [exec_puti_of_wellFormed s hw] at h; cases h; exact ⟨rfl, fun _ => rfl⟩
    | take b => cases h; cases b <;> exact ⟨rfl, nofun⟩
    | enc | time => cases h; exact ⟨rfl, nofun⟩
    | nop | clr | col | tx => cases h; exact ⟨rfl, fun _ => rfl⟩
    | sym0 | sym1 | reset | wireword => cases hi

end

/-! ## A tick without reset -/

section
variable {s t : State}

/-- Everything a tick without reset can be: an accepted command, an accepted illegal word, or a tick of the units. -/
theorem step_cases_of_not_reset (hr : s.turn.rst = false) (h : step s = .next t) :
    (∃ w i, s.acceptedWord = some w ∧ decode w = .ok i ∧ i.isCommand = true ∧ exec i s = .next t) ∨
    (∃ w e, s.acceptedWord = some w ∧ decode w = .error e ∧ t = illegalTick s w) ∨
    (s.acceptedWord = none ∧ t = idleTick s) := by
  obtain ⟨-, -, ⟨h1, -⟩ | ⟨-, w, i, hw, hi, he⟩ | ⟨-, hill⟩ | ⟨-, hidle⟩⟩ := step_cases h
  · simp [hr] at h1
  · exact .inl ⟨w, i, hw, hi, decode_isCommand hi, he⟩
  · exact .inr (.inl hill)
  · exact .inr (.inr hidle)

/-- What a tick without reset leaves in the fault registers: their values, or those of an accepted illegal word or of an
accepted command with an operand out of range (R272 to R274). -/
theorem step_fault (hr : s.turn.rst = false) (h : step s = .next t) :
    (t.fault = s.fault ∧ t.cause = s.cause ∧ t.info = s.info) ∨
    (t.fault = true ∧ ∃ w, s.acceptedWord = some w ∧
      ((∃ e, decode w = .error e ∧ t.cause = .illegalCmd ∧ t.info = w) ∨
       (∃ i, decode w = .ok i ∧ i.wellFormed = false ∧ t.cause = .badIndex ∧ t.info = encode i))) := by
  obtain ⟨w, i, hw, hi, hcmd, he⟩ | ⟨w, e, hw, he, rfl⟩ | ⟨-, rfl⟩ := step_cases_of_not_reset hr h
  · obtain ⟨-, hkept⟩ | ⟨hwf, hfault, hregs⟩ := exec_command_fault hcmd he
    · exact .inl hkept
    · exact .inr ⟨hfault, w, hw, .inr ⟨i, hi, hwf, hregs⟩⟩
  · exact .inr ⟨rfl, w, hw, .inl ⟨e, he, rfl, rfl⟩⟩
  · exact .inl ⟨rfl, rfl, rfl⟩

end

/-- Settles O49: the frame buffer and `COLOR` change only where a command is accepted, and then as `exec_command_fb` and
`exec_command_color` say. -/
theorem writersOfFrameBufferAndColour : Obligations.WritersOfFrameBufferAndColour := by
  intro s t hr h
  obtain ⟨w, i, hw, hi, hcmd, he⟩ | ⟨w, e, -, -, rfl⟩ | ⟨-, rfl⟩ := step_cases_of_not_reset hr h
  · constructor
    · intro hne
      exact ⟨w, i, hw, hi, (exec_command_fb hcmd he).resolve_left hne⟩
    · intro hne
      obtain ⟨r, g, b, rfl⟩ := (exec_command_color hcmd he).resolve_left hne
      exact ⟨w, r, g, b, hw, hi⟩
  · exact ⟨fun hne => absurd rfl hne, fun hne => absurd rfl hne⟩
  · exact ⟨fun hne => absurd rfl hne, fun hne => absurd rfl hne⟩

/-- Settles O50: an accepted command leaves what `exec_command_rsp` says; an illegal word and a tick without a command
give no response; reset clears both registers. -/
theorem responseRule : Obligations.ResponseRule := by
  intro s t h
  refine ⟨fun hr => ?_, fun hr => by rw [step_reset hr h]; exact ⟨rfl, rfl⟩⟩
  obtain ⟨w, i, hw, hi, hcmd, he⟩ | ⟨w, e, hw, he, rfl⟩ | ⟨hw, rfl⟩ := step_cases_of_not_reset hr h
  · obtain ⟨hrspV, hrsp⟩ := exec_command_rsp hcmd he
    refine ⟨?_, hrsp⟩
    rw [hrspV, Bool.and_eq_true]
    constructor
    · rintro ⟨hret, hwf⟩
      exact ⟨w, i, hw, hi, hret, hwf⟩
    · rintro ⟨w', i', hw', hi', hret, hwf⟩
      cases hw.symm.trans hw'
      cases hi.symm.trans hi'
      exact ⟨hret, hwf⟩
  · refine ⟨⟨nofun, ?_⟩, fun _ => rfl⟩
    rintro ⟨w', i, hw', hi, -⟩
    cases hw.symm.trans hw'
    cases he.symm.trans hi
  · refine ⟨⟨nofun, ?_⟩, fun _ => rfl⟩
    rintro ⟨w, i, hw', -⟩
    cases hw.symm.trans hw'

/-! ## Acceptance -/

theorem cmdReady_iff {s : State} :
    s.cmdReady = true ↔ s.seq = .sidle ∧ s.fault = false ∧ s.turn.rst = false := by
  simp [State.cmdReady, State.readyAt, and_assoc]

theorem acceptedWord_eq_some_iff {s : State} {w : Word} :
    s.acceptedWord = some w ↔ s.cmdReady = true ∧ s.turn.offer = some w := by
  simp [State.acceptedWord]

/-- The turn of a free host whose next pins are listed. -/
theorem turn_port {s : State} {i : Inputs} {rest : List Inputs} (h : s.env = .port (i :: rest)) :
    s.turn = portTurn s.tick (i :: rest) := by
  simp [State.turn, h]

/-- Settles O11: both pins by their definitions, the offer of a free host being `cmd` under `cmd_valid`. -/
theorem acceptanceRule : Obligations.AcceptanceRule := by
  refine ⟨fun s => cmdReady_iff, fun s i rest he w => ?_⟩
  have hoffer : s.turn.offer = if i.cmdValid then some i.cmd else none := by rw [turn_port he]; rfl
  have hrst : s.turn.rst = i.rst := by rw [turn_port he]; rfl
  rw [acceptedWord_eq_some_iff, cmdReady_iff, hoffer, hrst, Option.ite_none_right_eq_some, Option.some_inj]
  tauto

end Sys2Proof.Machine
end

section
/-! PROOF. The synchronizers (44_debounce_capture.md R202 to R205; 10_state.md R34): a chain of flops and `PREV` behind
it shift by one in every tick, so a sample stands in the last flop as many ticks later as the chain is long. -/

namespace Sys2Proof.Machine

/-! ## One tick of a synchronizer -/

theorem synced_of_getLast? {c : Capture} {last : Bool} (h : c.sync.getLast? = some last) : synced c = last := by
  simp [synced, h]

/-- A tick without reset shifts the chain, whatever is accepted: a `TAKE` writes `PENDING` only. -/
theorem step_sync {s t : State} (b : Button) (hr : s.turn.rst = false) (h : step s = .next t) :
    (t.cap b).sync = (s.turn.btn b :: (s.cap b).sync).dropLast ∧ (t.cap b).prev = synced (s.cap b) := by
  obtain hcap | ⟨hcap, -⟩ := step_cap b hr h <;> simp [hcap, advance_cap]

/-- Settles O43: `step_sync` for one tick, with the last flop of a chain named. -/
theorem synchronizerRule : Obligations.SynchronizerRule := by
  refine ⟨fun s t b hr h => ?_, fun c last hlast => ?_, fun s i rest he => ?_⟩
  · obtain ⟨hsync, hprev⟩ := step_sync b hr h
    refine ⟨hsync, fun last hlast => hprev.trans (synced_of_getLast? hlast), fun sync1 sync2 htwo => ⟨?_, ?_⟩⟩
    · rw [hsync, htwo]; rfl
    · rw [hprev]; exact synced_of_getLast? (by rw [htwo]; rfl)
  · simp [fall, synced_of_getLast? hlast]
  · rw [turn_port he]; exact ⟨rfl, rfl⟩

/-! ## A sample on its way through the chain -/

/-- The flops a sample passes: the chain, newest first, and `PREV` behind it. -/
def flops (c : Capture) : List Bool := c.sync ++ [c.prev]

theorem fall_of_flops {c : Capture} {n : Nat} {last prev : Bool} (hn : c.sync.length = n + 1)
    (hlast : (flops c)[n]? = some last) (hprev : (flops c)[n + 1]? = some prev) : fall c = (prev && !last) := by
  have hp : c.prev = prev := by simpa [flops, hn] using hprev
  have hs : c.sync.getLast? = some last := by
    rw [List.getLast?_eq_getElem?, hn]
    simpa [flops, hn] using hlast
  rw [fall, hp, synced_of_getLast? hs]

/-- In a tick without reset a chain of at least one flop and `PREV` shift as one list. -/
theorem step_flops {s t : State} {b : Button} (hr : s.turn.rst = false) (h : step s = .next t)
    (hne : (s.cap b).sync ≠ []) : flops (t.cap b) = s.turn.btn b :: (s.cap b).sync := by
  obtain ⟨hsync, hprev⟩ := step_sync b hr h
  have hlast : synced (s.cap b) = (s.turn.btn b :: (s.cap b).sync).getLast (List.cons_ne_nil _ _) := by
    rw [List.getLast_cons hne]
    exact synced_of_getLast? (List.getLast?_eq_getLast_of_ne_nil hne)
  rw [flops, hsync, hprev, hlast, List.dropLast_append_getLast]

theorem step_sync_length {s t : State} (b : Button) (hr : s.turn.rst = false) (h : step s = .next t) :
    (t.cap b).sync.length = (s.cap b).sync.length := by
  rw [(step_sync b hr h).1]; simp

/-- The value in flop `i` stands in flop `i + k` after `k` ticks without reset, as far as the chain and `PREV` reach. -/
theorem flops_after {s : State} {b : Button} {i : Nat} {v : Bool} (hi : (flops (s.cap b))[i]? = some v) (k : Nat)
    (u : State) (hn : NoReset k s) (hu : After k s u) :
    (u.cap b).sync.length = (s.cap b).sync.length ∧
    (i + k ≤ (s.cap b).sync.length → (flops (u.cap b))[i + k]? = some v) := by
  refine run_induct (fun k u => (u.cap b).sync.length = (s.cap b).sync.length ∧
    (i + k ≤ (s.cap b).sync.length → (flops (u.cap b))[i + k]? = some v)) ⟨rfl, fun _ => hi⟩ ?_ k u hn hu
  rintro k u t ⟨hlen, hv⟩ hr hst
  refine ⟨(step_sync_length b hr hst).trans hlen, fun hk => ?_⟩
  have hin : i + k < (u.cap b).sync.length := by omega
  rw [step_flops hr hst (List.ne_nil_of_length_pos (by omega)), ← Nat.add_assoc, List.getElem?_cons_succ]
  have := hv (by omega)
  rwa [flops, List.getElem?_append_left hin] at this

theorem noReset_of_succ {k : Nat} {s t : State} (h : step s = .next t) (hn : NoReset (k + 1) s) : NoReset k t :=
  fun j hj u hu => hn (j + 1) (Nat.succ_lt_succ hj) u (after_succ.2 ⟨t, h, hu⟩)

/-- Settles O44: with `k` flops the first sample has reached `PREV` after `k + 1` ticks, and the second one, which
entered a tick later, the last flop. -/
theorem fallingEdgeLatency : Obligations.FallingEdgeLatency := by
  intro s0 s1 u b hpos h0 hr0 hn hu
  obtain ⟨n, hlen⟩ := Nat.exists_eq_add_of_le' hpos
  rw [hlen] at hn hu
  have hlen1 := (step_sync_length b hr0 h0).trans hlen
  have hne {s : State} (h : (s.cap b).sync.length = n + 1) : (s.cap b).sync ≠ [] :=
    List.ne_nil_of_length_pos (by omega)
  have hr1 : s1.turn.rst = false := hn 0 (Nat.succ_pos n) s1 (after_zero.2 rfl)
  obtain ⟨s2, h1, hu2⟩ := after_succ.1 hu
  have hfirst : (flops (s1.cap b))[0]? = some (s0.turn.btn b) := by rw [step_flops hr0 h0 (hne hlen)]; rfl
  have hsecond : (flops (s2.cap b))[0]? = some (s1.turn.btn b) := by rw [step_flops hr1 h1 (hne hlen1)]; rfl
  obtain ⟨hlenu, hprev⟩ := flops_after hfirst (n + 1) u hn hu
  obtain ⟨-, hlast⟩ := flops_after hsecond n u (noReset_of_succ h1 hn) hu2
  have hlen2 := (step_sync_length b hr1 h1).trans hlen1
  rw [Nat.zero_add] at hprev hlast
  exact fall_of_flops (hlenu.trans hlen1) (hlast (by omega)) (hprev (by omega))

end Sys2Proof.Machine
end

section
/-! PROOF. The invariant (10_state.md R36, R33; 43_transmitter.md R184): each unit keeps its own bounds in its own tick,
and the step is made of these ticks. -/

namespace Sys2Proof.Machine

/-! ## Reset -/

theorem captureInv_afterReset (p : Params) : CaptureInv p (Capture.afterReset p) where
  sync := List.length_replicate
  pending := nofun
  lat := Nat.two_pow_pos _

theorem engineInv_afterReset (p : Params) : EngineInv p Engine.afterReset where
  shift := nofun
  gap _ := ⟨Nat.zero_le _, rfl⟩

theorem inv_resetOf {p : Params} (hp : paramsOk p = true) : Inv (State.resetOf p) where
  params := hp
  sidx := nofun
  queue := Nat.zero_le _
  padding := nofun
  engine := engineInv_afterReset p
  capA := captureInv_afterReset p
  capB := captureInv_afterReset p
  noFault h := by simp_all [State.resetOf]
  faulted h := by simp_all [State.resetOf]
  presc := Nat.zero_le _
  time := Nat.two_pow_pos _
  present h := by simpa [State.resetOf] using h

theorem supplied_resetOf (p : Params) : Supplied (State.resetOf p) where
  notGap := nofun
  first := nofun
  next := nofun

/-- Settles O54: every counter is 0, the queue is empty and the sequencer idle. -/
theorem resetMeetsTheInvariant : Obligations.ResetMeetsTheInvariant := fun p hp =>
  ⟨inv_resetOf hp, supplied_resetOf p⟩

/-- The invariant does not speak of the outside or of the number of ticks. -/
theorem Inv.with_outside {s : State} (h : Inv s) (env : Env) (tick : Nat) : Inv { s with env, tick } :=
  ⟨h.params, h.sidx, h.queue, h.padding, h.engine, h.capA, h.capB, h.noFault, h.faulted, h.presc, h.time, h.present⟩

/-! ## The transmit engine and the queue -/

theorem engineInv_loadWord (p : Params) (e : Engine) (w : Word) : EngineInv p (loadWord e w) where
  shift _ := by simp
  gap := nofun

theorem engineInv_beginGap (p : Params) (e : Engine) : EngineInv p (beginGap e) where
  shift := nofun
  gap _ := ⟨Nat.zero_le _, rfl⟩

section
variable {p : Params} {e : Engine}

theorem EngineInv.nextBit (h : EngineInv p e) (he : e.eng = .shift) (hb : 1 < e.bitCnt) :
    EngineInv p (nextBit e) where
  shift _ := by
    obtain ⟨-, hle, -⟩ := h.shift he
    exact ⟨Nat.le_sub_of_add_le hb, (Nat.sub_le _ _).trans hle, Nat.zero_le _⟩
  gap hg := nomatch he.symm.trans hg

/-- The engine keeps its bounds (R168 to R175). -/
theorem EngineInv.step (h : EngineInv p e) (q : List Word) : EngineInv p (engineStep p e q).1 := by
  obtain ⟨-, -, hs⟩ | ⟨-, w, r, -, hs⟩ | ⟨he, hph, hs⟩ | ⟨he, -, hb, hs⟩ | ⟨-, -, -, ⟨-, hs⟩ | ⟨w, r, -, hs⟩⟩ |
    ⟨he, hg, hs⟩ | ⟨-, -, hs⟩ | ⟨hs, -⟩ := engineStep_cases p e q <;> rw [hs]
  · exact h
  · exact engineInv_loadWord p e w
  · obtain ⟨hpos, hle, -⟩ := h.shift he
    exact ⟨fun _ => ⟨hpos, hle, hph⟩, fun hgap => nomatch he.symm.trans hgap⟩
  · exact h.nextBit he hb
  · exact engineInv_beginGap p e
  · exact engineInv_loadWord p e w
  · exact ⟨fun hshift => (nomatch he.symm.trans hshift), fun _ => ⟨hg, (h.gap he).2⟩⟩
  · exact ⟨nofun, nofun⟩
  · exact h

end

/-- The engine at most pops the queue's oldest word (R163): after the rewriting a tick that takes none leaves nothing to
prove. -/
theorem engineStep_queue_suffix (p : Params) (e : Engine) (q : List Word) : (engineStep p e q).2 <:+ q := by
  obtain ⟨-, rfl, hs⟩ | ⟨-, w, r, rfl, hs⟩ | ⟨-, -, hs⟩ | ⟨-, -, -, hs⟩ | ⟨-, -, -, ⟨rfl, hs⟩ | ⟨w, r, rfl, hs⟩⟩ |
    ⟨-, -, hs⟩ | ⟨-, -, hs⟩ | ⟨hs, -⟩ := engineStep_cases p e q <;> rw [hs]
  · exact List.suffix_cons w r
  · exact List.suffix_cons w r

/-! ## The sequencer -/

section
variable {s : State}

/-- What the sequencer pushes fits the queue of `S(n)` (R163). -/
theorem seqStep_push_fits (h : s.txq.length ≤ s.par.txqDepth) :
    s.txq.length + (seqStep s).push.length ≤ s.par.txqDepth := by
  obtain ⟨-, hq⟩ | ⟨-, -, -, hq⟩ | ⟨-, -, hq⟩ | ⟨-, hroom, hq⟩ | ⟨-, -, hq⟩ := seqStep_cases s <;> rw [hq]
  case inr.inr.inr.inl => exact hroom
  all_goals exact h

/-- The padding byte of what the sequencer pushes is zero (R102). -/
theorem seqStep_push_padding {w : Word} (h : w ∈ (seqStep s).push) : w &&& 0xFF = 0 := by
  obtain ⟨-, hq⟩ | ⟨-, -, -, hq⟩ | ⟨-, -, hq⟩ | ⟨-, -, hq⟩ | ⟨-, -, hq⟩ := seqStep_cases s <;> rw [hq] at h
  case inr.inr.inr.inl => rw [List.mem_singleton.1 h]; exact wireOf_padding _
  all_goals cases h

/-- The index stays within the frame while the sequencer pushes (R167, R183). -/
theorem seqStep_sidx_le (h : s.seq = .spush → s.sidx ≤ 24) (hs : (seqStep s).seq = .spush) :
    (seqStep s).sidx ≤ 24 := by
  obtain ⟨-, hq⟩ | ⟨-, -, -, hq⟩ | ⟨-, -, hq⟩ | ⟨hpush, -, hq⟩ | ⟨hpush, -, hq⟩ := seqStep_cases s <;>
    rw [hq] at hs ⊢
  · cases hs
  · exact Nat.zero_le _
  · cases hs
  · have hle := h hpush
    have hne : s.sidx ≠ 24 := by
      intro hlast
      rw [if_pos hlast] at hs
      cases hs
    show s.sidx + 1 ≤ 24
    omega
  · exact h hpush

theorem seqStep_seq_of_idle (h : s.seq = .sidle) : (seqStep s).seq = .sidle := by
  simp [seqStep, h]

end

/-! ## The clock and the capture units -/

theorem prescStep_le {p : Params} {n : Nat} (h : n ≤ p.ticksPerMs - 1) : prescStep p n ≤ p.ticksPerMs - 1 := by
  unfold prescStep
  split <;> omega

theorem timeStep_lt {p : Params} {n : Nat} {t : Word} (hp : paramsOk p = true) (h : t.toNat < 2 ^ p.timeW) :
    (timeStep p n t).toNat < 2 ^ p.timeW := by
  unfold timeStep
  split
  · exact timeSucc_lt hp t
  · exact h

/-- A capture unit keeps its bounds (R202, R206): an accepted edge sets `PENDING` and `LATV` together. -/
theorem CaptureInv.step {p : Params} {now : Word} {c : Capture} (h : CaptureInv p c) (ht : now.toNat < 2 ^ p.timeW)
    (x : Bool) : CaptureInv p (captureStep p now c x) where
  sync := by simp [h.sync]
  pending := by
    rw [captureStep_pending, captureStep_latV, Bool.or_eq_true, Bool.or_eq_true]
    exact Or.imp_right h.pending
  lat := by
    rw [captureStep_lat]
    split
    · exact ht
    · exact h.lat

/-- A `TAKE` leaves `PENDING` set only by an edge accepted in its tick (R211), which sets `LATV` too. -/
theorem CaptureInv.take {p : Params} {now : Word} {c : Capture} {x : Bool}
    (h : CaptureInv p (captureStep p now c x)) :
    CaptureInv p { captureStep p now c x with pending := accept p now c } where
  sync := h.sync
  pending hacc := by
    rw [captureStep_latV]
    exact Bool.or_eq_true_iff.2 (.inl hacc)
  lat := h.lat

theorem Inv.cap {s : State} (h : Inv s) (b : Button) : CaptureInv s.par (s.cap b) := by
  cases b
  · exact h.capA
  · exact h.capB

/-! ## The step -/

section
variable {s t : State}

theorem Inv.step_cap (h : Inv s) (hr : s.turn.rst = false) (hst : step s = .next t) (b : Button) :
    CaptureInv s.par (t.cap b) := by
  have hunit := (h.cap b).step h.time (s.turn.btn b)
  obtain hcap | ⟨hcap, -⟩ := Machine.step_cap b hr hst <;> rw [hcap, advance_cap]
  · exact hunit
  · exact hunit.take

theorem Inv.step_sidx (h : Inv s) (hr : s.turn.rst = false) (hst : step s = .next t) (ht : t.seq = .spush) :
    t.sidx ≤ 24 := by
  obtain ⟨-, -, hsidx, -⟩ := step_units hr hst
  obtain hseq | ⟨-, hwait, -⟩ := step_seq hr hst
  · rw [hsidx]; exact seqStep_sidx_le h.sidx (hseq ▸ ht)
  · cases hwait.symm.trans ht

/-- Without reset a fault leaves the sequencer idle (R184): it arises only from a word accepted by an idle sequencer,
never from a `TX`, and while it stands nothing is accepted. -/
theorem Inv.step_faulted (h : Inv s) (hr : s.turn.rst = false) (hst : step s = .next t) (ht : t.fault = true) :
    t.cause ≠ .none ∧ t.seq = .sidle := by
  obtain ⟨hfault, hcause, -⟩ | ⟨-, w, hw, hwhy⟩ := step_fault hr hst
  · obtain ⟨hne, hidle⟩ := h.faulted (hfault ▸ ht)
    refine ⟨hcause ▸ hne, ?_⟩
    obtain hseq | ⟨-, -, w, hw, -⟩ := step_seq hr hst
    · exact hseq.trans (seqStep_seq_of_idle hidle)
    · cases (accepted_ready hw).2.1.symm.trans (hfault ▸ ht)
  · obtain hseq | ⟨-, -, w', hw', htx⟩ := step_seq hr hst
    · refine ⟨?_, hseq.trans (seqStep_seq_of_idle (accepted_ready hw).1)⟩
      obtain ⟨e, -, hcause, -⟩ | ⟨i, -, -, hcause, -⟩ := hwhy <;> rw [hcause] <;> decide
    · cases hw.symm.trans hw'
      obtain ⟨e, he, -⟩ | ⟨i, hi, hwf, -⟩ := hwhy
      · cases he.symm.trans htx
      · cases hi.symm.trans htx; cases hwf

/-- A tick without reset keeps the invariant. -/
theorem Inv.step_of_not_reset (h : Inv s) (hr : s.turn.rst = false) (hst : step s = .next t) : Inv t := by
  obtain ⟨heng, htxq, -, hpresc, htime, hpar, -⟩ := step_units hr hst
  have hpop := engineStep_queue_suffix s.par s.engine s.txq
  constructor
  case params => rw [hpar]; exact h.params
  case sidx => exact h.step_sidx hr hst
  case queue =>
    rw [hpar, htxq, List.length_append]
    exact (Nat.add_le_add_right hpop.length_le _).trans (seqStep_push_fits h.queue)
  case padding =>
    intro w hw
    rw [htxq] at hw
    obtain hold | hpushed := List.mem_append.1 hw
    · exact h.padding w (hpop.subset hold)
    · exact seqStep_push_padding hpushed
  case engine => rw [hpar, heng]; exact h.engine.step s.txq
  case capA => rw [hpar]; exact h.step_cap hr hst .buttonA
  case capB => rw [hpar]; exact h.step_cap hr hst .buttonB
  case noFault =>
    intro ht
    obtain ⟨hfault, hcause, hinfo⟩ | ⟨hfault, -⟩ := step_fault hr hst
    · rw [hcause, hinfo]; exact h.noFault (hfault ▸ ht)
    · cases hfault.symm.trans ht
  case faulted => exact h.step_faulted hr hst
  case presc => rw [hpar, hpresc]; exact prescStep_le h.presc
  case time => rw [hpar, htime]; exact timeStep_lt h.params h.time
  case present =>
    intro habsent
    obtain ⟨hfault, -⟩ | ⟨hfault, -⟩ := step_fault hr hst
    · rw [hfault]; exact h.present (hpar ▸ habsent)
    · exact hfault

end

/-- Settles O55: a reset leads to the reset state of the same parameters, and in any other tick each unit keeps its
part. -/
theorem everyStepKeepsTheInvariant : Obligations.EveryStepKeepsTheInvariant := by
  intro s t h hst
  cases hr : s.turn.rst with
  | true => rw [step_reset hr hst]; exact (inv_resetOf h.params).with_outside _ _
  | false => exact h.step_of_not_reset hr hst

end Sys2Proof.Machine
end

section
/-! PROOF. Memory ordering (20_memory.md R74, R76): a waiting or pushing sequencer keeps commands from the frame
buffer. -/

namespace Sys2Proof.Machine

/-- Settles O40: a busy sequencer accepts nothing, so the tick is the units' own, and these write neither register. -/
theorem frameBufferIsStableWhileQueueing : Obligations.FrameBufferIsStableWhileQueueing := by
  intro s t hr hbusy h
  rw [step_eq_idleTick_of_busy hr hbusy h]
  exact ⟨advance_fb s false, advance_color s false⟩

end Sys2Proof.Machine
end

section
/-! PROOF. The encodings (30_encoding.md R90 to R95, R102): the decoder reads a word by the row of the table it is in,
the rows have different opcodes, and a row's words are those whose bits above the operand are the row's. -/

namespace Sys2Proof

open Machine

/-! ## The rows of the table (R93) -/

/-- `w` is a word of the table's row of `i`. -/
def InRowOf (i : Instr) (w : Word) : Prop := w &&& tableMask i = tableMatch i

/-- The word of an instruction is in its row. -/
theorem encode_inRowOf (i : Instr) : InRowOf i (encode i) :=
  match i with
  | .nop => Laws.TableRow.nop
  | .enc r g b => Laws.TableRow.enc r g b
  | .map x y => Laws.TableRow.map x y
  | .clr => Laws.TableRow.clr
  | .col r g b => Laws.TableRow.col r g b
  | .plot x y => Laws.TableRow.plot x y
  | .puti idx => Laws.TableRow.puti idx
  | .rdpx idx => Laws.TableRow.rdpx idx
  | .tx => Laws.TableRow.tx
  | .take btn => Laws.TableRow.take btn
  | .time => Laws.TableRow.time
  | .sym0 => Laws.TableRow.sym0
  | .sym1 => Laws.TableRow.sym1
  | .reset => Laws.TableRow.reset
  | .wireword g r b => Laws.TableRow.wireword g r b

/-- The opcode of a command (R93). An item of the engine has none and stands under one that no command has. -/
def opcode : Instr → Nat
  | .nop => 0x0
  | .enc .. => 0x1
  | .map .. => 0x2
  | .clr => 0x3
  | .col .. => 0x4
  | .plot .. => 0x5
  | .puti .. => 0x6
  | .rdpx .. => 0x7
  | .tx => 0x8
  | .take .. => 0x9
  | .time => 0xA
  | .sym0 | .sym1 | .reset | .wireword .. => 0xF

/-- Every row fixes all bits of the opcode, so a word is in a row of its own opcode only. -/
theorem fieldOp_of_inRowOf {i : Instr} {w : Word} (hi : i.isCommand = true) (h : InRowOf i w) :
    (fieldOp w).toNat = opcode i := by
  have hmask : fieldOp (tableMask i) = BitVec.allOnes 4 := by
    cases i with
    | sym0 | sym1 | reset | wireword => cases hi
    | _ => simp only [tableMask]; decide
  have hmatch : (fieldOp (tableMatch i)).toNat = opcode i := by
    cases i with
    | sym0 | sym1 | reset | wireword => cases hi
    | _ => simp only [tableMatch, opcode]; decide
  have hand : fieldOp (w &&& tableMask i) = fieldOp w &&& fieldOp (tableMask i) := BitVec.extractLsb'_and
  rw [← hmatch, ← h, hand, hmask, BitVec.and_allOnes]

/-- The command of a row, by the row's opcode, with the operands read from `w` (R90). -/
def commandAt (op : Nat) (w : Word) : Instr :=
  match op with
  | 0x0 => .nop
  | 0x1 => .enc (fieldR w) (fieldG w) (fieldB w)
  | 0x2 => .map (fieldX w) (fieldY w)
  | 0x3 => .clr
  | 0x4 => .col (fieldR w) (fieldG w) (fieldB w)
  | 0x5 => .plot (fieldX w) (fieldY w)
  | 0x6 => .puti (fieldIdx w)
  | 0x7 => .rdpx (fieldIdx w)
  | 0x8 => .tx
  | 0x9 => .take (fieldButton w)
  | _ => .time

/-- Everything the decoder can answer: the command of the row a word is in, or an error for a word of no row. -/
theorem decode_cases (w : Word) :
    (∃ i, i.isCommand = true ∧ InRowOf i w ∧ decode w = .ok (commandAt (opcode i) w)) ∨
    ((∀ i, i.isCommand = true → ¬ InRowOf i w) ∧ decode w = .error (rejectName w)) := by
  generalize hr : decode w = r
  unfold decode at hr
  obtain ⟨h, rfl⟩ | ⟨nop, hr⟩ := ite_eq_iff.1 hr
  · exact .inl ⟨.nop, rfl, eq_of_beq h, rfl⟩
  obtain ⟨h, rfl⟩ | ⟨enc, hr⟩ := ite_eq_iff.1 hr
  · exact .inl ⟨.enc 0 0 0, rfl, eq_of_beq h, rfl⟩
  obtain ⟨h, rfl⟩ | ⟨map, hr⟩ := ite_eq_iff.1 hr
  · exact .inl ⟨.map 0 0, rfl, eq_of_beq h, rfl⟩
  obtain ⟨h, rfl⟩ | ⟨clr, hr⟩ := ite_eq_iff.1 hr
  · exact .inl ⟨.clr, rfl, eq_of_beq h, rfl⟩
  obtain ⟨h, rfl⟩ | ⟨col, hr⟩ := ite_eq_iff.1 hr
  · exact .inl ⟨.col 0 0 0, rfl, eq_of_beq h, rfl⟩
  obtain ⟨h, rfl⟩ | ⟨plot, hr⟩ := ite_eq_iff.1 hr
  · exact .inl ⟨.plot 0 0, rfl, eq_of_beq h, rfl⟩
  obtain ⟨h, rfl⟩ | ⟨puti, hr⟩ := ite_eq_iff.1 hr
  · exact .inl ⟨.puti 0, rfl, eq_of_beq h, rfl⟩
  obtain ⟨h, rfl⟩ | ⟨rdpx, hr⟩ := ite_eq_iff.1 hr
  · exact .inl ⟨.rdpx 0, rfl, eq_of_beq h, rfl⟩
  obtain ⟨h, rfl⟩ | ⟨tx, hr⟩ := ite_eq_iff.1 hr
  · exact .inl ⟨.tx, rfl, eq_of_beq h, rfl⟩
  obtain ⟨h, rfl⟩ | ⟨take, hr⟩ := ite_eq_iff.1 hr
  · exact .inl ⟨.take .buttonA, rfl, eq_of_beq h, rfl⟩
  obtain ⟨h, rfl⟩ | ⟨time, hr⟩ := ite_eq_iff.1 hr
  · exact .inl ⟨.time, rfl, eq_of_beq h, rfl⟩
  refine .inr ⟨fun i hi hrow => ?_, hr.symm⟩
  have hrow : inRow (tableMask i) (tableMatch i) w = true := beq_iff_eq.2 hrow
  cases i with
  | nop => exact nop hrow
  | enc => exact enc hrow
  | map => exact map hrow
  | clr => exact clr hrow
  | col => exact col hrow
  | plot => exact plot hrow
  | puti => exact puti hrow
  | rdpx => exact rdpx hrow
  | tx => exact tx hrow
  | take => exact take hrow
  | time => exact time hrow
  | sym0 | sym1 | reset | wireword => cases hi

section
variable {i : Instr} {w : Word}

/-- A word of a row decodes to the row's command. -/
theorem decode_of_inRowOf (hi : i.isCommand = true) (h : InRowOf i w) : decode w = .ok (commandAt (opcode i) w) := by
  obtain ⟨j, hj, hrow, hd⟩ | ⟨hnone, -⟩ := decode_cases w
  · rw [hd, ← fieldOp_of_inRowOf hj hrow, fieldOp_of_inRowOf hi h]
  · exact absurd h (hnone i hi)

/-- The command read in a row is of that row. -/
theorem tableMask_commandAt (hi : i.isCommand = true) : tableMask (commandAt (opcode i) w) = tableMask i := by
  cases i with
  | sym0 | sym1 | reset | wireword => cases hi
  | _ => rfl

theorem tableMatch_commandAt (hi : i.isCommand = true) : tableMatch (commandAt (opcode i) w) = tableMatch i := by
  cases i with
  | sym0 | sym1 | reset | wireword => cases hi
  | _ => rfl

end

/-! ## A row by arithmetic -/

/-- The number of operand bits that the row of a command leaves free (R90). -/
def freeBits : Instr → Nat
  | .enc .. | .col .. => 24
  | .map .. | .plot .. => 6
  | .puti .. | .rdpx .. => 5
  | .take .. => 1
  | .nop | .clr | .tx | .time => 0
  | .sym0 | .sym1 | .reset | .wireword .. => 0

/-- The bits of `w` from bit `k` up are those of `n`. -/
theorem and_allOnes_shiftLeft_eq_iff (w : Word) {k n : Nat} (hk : k ≤ 32) (hn : n < 2 ^ (32 - k)) :
    w &&& BitVec.allOnes 32 <<< k = BitVec.ofNat 32 n <<< k ↔ w.toNat / 2 ^ k = n := by
  have hsplit : 2 ^ (32 - k) * 2 ^ k = 2 ^ 32 := by rw [← pow_add, Nat.sub_add_cancel hk]
  have hfit {m : Nat} (hm : m < 2 ^ (32 - k)) : m * 2 ^ k < 2 ^ 32 :=
    hsplit ▸ Nat.mul_lt_mul_of_pos_right hm (Nat.two_pow_pos k)
  have hw : w.toNat / 2 ^ k < 2 ^ (32 - k) := Nat.div_lt_of_lt_mul (by rw [Nat.mul_comm, hsplit]; exact w.isLt)
  have hn' : n < 2 ^ 32 := hn.trans_le (Nat.pow_le_pow_right (by decide) (Nat.sub_le _ _))
  rw [← BitVec.shiftLeft_ushiftRight, ← BitVec.toNat_inj]
  simp only [BitVec.toNat_shiftLeft, BitVec.toNat_ushiftRight, BitVec.toNat_ofNat, Nat.shiftLeft_eq,
    Nat.shiftRight_eq_div_pow]
  rw [Nat.mod_eq_of_lt hn', Nat.mod_eq_of_lt (hfit hw), Nat.mod_eq_of_lt (hfit hn)]
  exact Nat.mul_left_inj (Nat.two_pow_pos k).ne'

/-- A word is in a row iff above the free bits it is the opcode over zeros. -/
theorem inRowOf_iff {i : Instr} {w : Word} (hi : i.isCommand = true) :
    InRowOf i w ↔ w.toNat / 2 ^ freeBits i = opcode i * 2 ^ (28 - freeBits i) := by
  have hk : freeBits i ≤ 28 := by unfold freeBits; split <;> decide
  have hmask : tableMask i = BitVec.allOnes 32 <<< freeBits i := by
    cases i with
    | sym0 | sym1 | reset | wireword => cases hi
    | _ => simp only [tableMask, freeBits]; decide
  have hmatch : tableMatch i = BitVec.ofNat 32 (opcode i * 2 ^ (28 - freeBits i)) <<< freeBits i := by
    cases i with
    | sym0 | sym1 | reset | wireword => cases hi
    | _ => simp only [tableMatch, opcode, freeBits]; decide
  have hop : opcode i < 2 ^ 4 := by unfold opcode; split <;> decide
  have hfit : opcode i * 2 ^ (28 - freeBits i) < 2 ^ (32 - freeBits i) := by
    rw [show 32 - freeBits i = 4 + (28 - freeBits i) by omega, pow_add]
    exact Nat.mul_lt_mul_of_pos_right hop (Nat.two_pow_pos _)
  rw [InRowOf, hmask, hmatch, and_allOnes_shiftLeft_eq_iff w (by omega) hfit]

/-! ## The words and their fields by arithmetic (R90) -/

/-- A field of `n` bits from bit `k` up, put under a word that is zero below the field's end, adds. -/
theorem toNat_or_field {n k : Nat} (a : Word) (x : BitVec n) (hk : n + k ≤ 32) (ha : 2 ^ (n + k) ∣ a.toNat) :
    (a ||| x.setWidth 32 <<< k).toNat = a.toNat + x.toNat * 2 ^ k := by
  have hx : x.toNat * 2 ^ k < 2 ^ (n + k) := by
    rw [pow_add]; exact Nat.mul_lt_mul_of_pos_right x.isLt (Nat.two_pow_pos k)
  have hle {m : Nat} (hm : m ≤ 32) : 2 ^ m ≤ 2 ^ 32 := Nat.pow_le_pow_right (by decide) hm
  rw [BitVec.toNat_or, BitVec.toNat_shiftLeft, BitVec.toNat_setWidth, Nat.shiftLeft_eq,
    Nat.mod_eq_of_lt (x.isLt.trans_le (hle (by omega))), Nat.mod_eq_of_lt (hx.trans_le (hle hk)),
    or_eq_add _ _ _ hx ha]

/-- The same for a field at the bottom. -/
theorem toNat_or_lowField {n : Nat} (a : Word) (x : BitVec n) (hn : n ≤ 32) (ha : 2 ^ n ∣ a.toNat) :
    (a ||| x.setWidth 32).toNat = a.toNat + x.toNat := by
  have h := toNat_or_field (k := 0) a x hn ha
  rwa [BitVec.shiftLeft_zero, Nat.pow_zero, Nat.mul_one] at h

section
variable (op : BitVec 4) (r g b : Channel) (x y : Coord) (idx : PixelIndex) (btn : Button)

theorem wordZ_toNat : (wordZ op).toNat = op.toNat * 2 ^ 28 := by
  have h := toNat_or_field (k := 28) 0#32 op (by decide) (dvd_zero _)
  rwa [BitVec.zero_or, BitVec.toNat_zero, Nat.zero_add] at h

theorem wordC_toNat : (wordC op r g b).toNat = op.toNat * 2 ^ 28 + r.toNat * 2 ^ 16 + g.toNat * 2 ^ 8 + b.toNat := by
  have hr := toNat_or_field (k := 16) (wordZ op) r (by decide) (by rw [wordZ_toNat]; omega)
  have hg := toNat_or_field (k := 8) _ g (by decide) (by rw [hr, wordZ_toNat]; omega)
  have hb := toNat_or_lowField _ b (by decide) (by rw [hg, hr, wordZ_toNat]; omega)
  rw [hg, hr, wordZ_toNat] at hb
  exact hb

theorem wordXY_toNat : (wordXY op x y).toNat = op.toNat * 2 ^ 28 + y.toNat * 2 ^ 3 + x.toNat := by
  have hy := toNat_or_field (k := 3) (wordZ op) y (by decide) (by rw [wordZ_toNat]; omega)
  have hx := toNat_or_lowField _ x (by decide) (by rw [hy, wordZ_toNat]; omega)
  rw [hy, wordZ_toNat] at hx
  exact hx

theorem wordI_toNat : (wordI op idx).toNat = op.toNat * 2 ^ 28 + idx.toNat := by
  have hidx := toNat_or_lowField (wordZ op) idx (by decide) (by rw [wordZ_toNat]; omega)
  rw [wordZ_toNat] at hidx
  exact hidx

theorem wordB_toNat : (wordB op btn).toNat = op.toNat * 2 ^ 28 + btn.index.val := by
  have hbit : BitVec.ofNat 32 btn.index.val = (BitVec.ofNat 1 btn.index.val).setWidth 32 := by cases btn <;> rfl
  have hnum : (BitVec.ofNat 1 btn.index.val).toNat = btn.index.val := by cases btn <;> rfl
  have hbtn := toNat_or_lowField (wordZ op) (BitVec.ofNat 1 btn.index.val) (by decide) (by rw [wordZ_toNat]; omega)
  rw [wordZ_toNat, hnum] at hbtn
  rw [wordB, hbit]
  exact hbtn

end

section
variable (w : Word)

theorem fieldR_toNat : (fieldR w).toNat = w.toNat / 2 ^ 16 % 2 ^ 8 := by
  rw [fieldR, BitVec.extractLsb'_toNat, Nat.shiftRight_eq_div_pow]

theorem fieldG_toNat : (fieldG w).toNat = w.toNat / 2 ^ 8 % 2 ^ 8 := by
  rw [fieldG, BitVec.extractLsb'_toNat, Nat.shiftRight_eq_div_pow]

theorem fieldB_toNat : (fieldB w).toNat = w.toNat % 2 ^ 8 := by
  rw [fieldB, BitVec.extractLsb'_toNat, Nat.shiftRight_zero]

theorem fieldY_toNat : (fieldY w).toNat = w.toNat / 2 ^ 3 % 2 ^ 3 := by
  rw [fieldY, BitVec.extractLsb'_toNat, Nat.shiftRight_eq_div_pow]

theorem fieldX_toNat : (fieldX w).toNat = w.toNat % 2 ^ 3 := by
  rw [fieldX, BitVec.extractLsb'_toNat, Nat.shiftRight_zero]

theorem fieldIdx_toNat : (fieldIdx w).toNat = w.toNat % 2 ^ 5 := by
  rw [fieldIdx, BitVec.extractLsb'_toNat, Nat.shiftRight_zero]

theorem fieldButton_index : (fieldButton w).index.val = w.toNat % 2 := by
  rw [fieldButton, BitVec.getLsbD, Nat.testBit_zero]
  split
  case isTrue h => exact (decide_eq_true_iff.1 h).symm
  case isFalse h =>
    rw [decide_eq_true_iff] at h
    show 0 = w.toNat % 2
    omega

end

/-! ## The operands read back -/

section
variable (op : BitVec 4) (r g b : Channel) (x y : Coord) (idx : PixelIndex) (btn : Button)

@[simp] theorem fieldR_wordC : fieldR (wordC op r g b) = r :=
  BitVec.eq_of_toNat_eq (by rw [fieldR_toNat, wordC_toNat]; omega)

@[simp] theorem fieldG_wordC : fieldG (wordC op r g b) = g :=
  BitVec.eq_of_toNat_eq (by rw [fieldG_toNat, wordC_toNat]; omega)

@[simp] theorem fieldB_wordC : fieldB (wordC op r g b) = b :=
  BitVec.eq_of_toNat_eq (by rw [fieldB_toNat, wordC_toNat]; omega)

@[simp] theorem fieldX_wordXY : fieldX (wordXY op x y) = x :=
  BitVec.eq_of_toNat_eq (by rw [fieldX_toNat, wordXY_toNat]; omega)

@[simp] theorem fieldY_wordXY : fieldY (wordXY op x y) = y :=
  BitVec.eq_of_toNat_eq (by rw [fieldY_toNat, wordXY_toNat]; omega)

@[simp] theorem fieldIdx_wordI : fieldIdx (wordI op idx) = idx :=
  BitVec.eq_of_toNat_eq (by rw [fieldIdx_toNat, wordI_toNat]; omega)

@[simp] theorem fieldButton_wordB : fieldButton (wordB op btn) = btn := by
  refine button_index_bijective.injective (Fin.val_injective ?_)
  have hbtn : btn.index.val < 2 := btn.index.isLt
  rw [fieldButton_index, wordB_toNat]
  omega

end

/-- The operands of a command are read back from its word. -/
theorem commandAt_encode {i : Instr} (hi : i.isCommand = true) : commandAt (opcode i) (encode i) = i := by
  cases i with
  | nop | clr | tx | time => rfl
  | enc | col | map | plot | puti | rdpx | take => simp [commandAt, opcode, encode]
  | sym0 | sym1 | reset | wireword => cases hi

/-- Settles O1: the word of a command is in the command's row, and its operands are read back. -/
theorem everyCommandDecodesFromItsWord : Obligations.EveryCommandDecodesFromItsWord := by
  intro i hi
  rw [decode_of_inRowOf hi (encode_inRowOf i), commandAt_encode hi]

/-! ## The word put together again -/

section
variable {w : Word} {op : BitVec 4}

theorem wordZ_eq (h : w.toNat / 2 ^ 0 = op.toNat * 2 ^ 28) : wordZ op = w :=
  BitVec.eq_of_toNat_eq (by rw [wordZ_toNat]; omega)

theorem wordC_fields (h : w.toNat / 2 ^ 24 = op.toNat * 2 ^ 4) : wordC op (fieldR w) (fieldG w) (fieldB w) = w :=
  BitVec.eq_of_toNat_eq (by rw [wordC_toNat, fieldR_toNat, fieldG_toNat, fieldB_toNat]; omega)

theorem wordXY_fields (h : w.toNat / 2 ^ 6 = op.toNat * 2 ^ 22) : wordXY op (fieldX w) (fieldY w) = w :=
  BitVec.eq_of_toNat_eq (by rw [wordXY_toNat, fieldX_toNat, fieldY_toNat]; omega)

theorem wordI_field (h : w.toNat / 2 ^ 5 = op.toNat * 2 ^ 23) : wordI op (fieldIdx w) = w :=
  BitVec.eq_of_toNat_eq (by rw [wordI_toNat, fieldIdx_toNat]; omega)

theorem wordB_field (h : w.toNat / 2 ^ 1 = op.toNat * 2 ^ 27) : wordB op (fieldButton w) = w :=
  BitVec.eq_of_toNat_eq (by rw [wordB_toNat, fieldButton_index]; omega)

end

/-- A word of a row is the word of the command read in it: the row's mask covers every bit that is no operand. -/
theorem encode_commandAt {i : Instr} {w : Word} (hi : i.isCommand = true) (h : InRowOf i w) :
    encode (commandAt (opcode i) w) = w := by
  have hbits := (inRowOf_iff hi).1 h
  cases i with
  | nop | clr | tx | time => exact wordZ_eq hbits
  | enc | col => exact wordC_fields hbits
  | map | plot => exact wordXY_fields hbits
  | puti | rdpx => exact wordI_field hbits
  | take => exact wordB_field hbits
  | sym0 | sym1 | reset | wireword => cases hi

/-- Settles O2: a word decodes in a row only, and there the command read has this very word. -/
theorem decodedWordIsTheEncoding : Obligations.DecodedWordIsTheEncoding := by
  intro w i h
  obtain ⟨j, hj, hrow, hd⟩ | ⟨-, hd⟩ := decode_cases w
  · cases h.symm.trans hd
    exact ⟨decode_isCommand h, encode_commandAt hj hrow⟩
  · cases h.symm.trans hd

/-- A word that decodes is in the row of its command. -/
theorem inRowOf_of_decode {w : Word} {i : Instr} (h : decode w = .ok i) : InRowOf i w := by
  obtain ⟨-, hw⟩ := decodedWordIsTheEncoding w i h
  exact hw ▸ encode_inRowOf i

/-- Settles O3: in a row the decoder reads the row's command, and what it reads is in its row. -/
theorem decodeFollowsMaskAndMatch : Obligations.DecodeFollowsMaskAndMatch := by
  intro w i hi
  constructor
  · intro h
    exact ⟨_, decode_of_inRowOf hi h, tableMask_commandAt hi, tableMatch_commandAt hi⟩
  · rintro ⟨j, hd, hmask, hmatch⟩
    rw [← hmask, ← hmatch]
    exact inRowOf_of_decode hd

/-! ## The illegal words (R94) -/

/-- A word is legal iff it is in some command's row. -/
theorem decode_error_iff (w : Word) : (∃ e, decode w = .error e) ↔ ∀ i, i.isCommand = true → ¬ InRowOf i w := by
  obtain ⟨j, hj, hrow, hd⟩ | ⟨hnone, hd⟩ := decode_cases w
  · exact ⟨fun ⟨e, he⟩ => (nomatch hd.symm.trans he), fun h => absurd hrow (h j hj)⟩
  · exact ⟨fun _ => hnone, fun _ => ⟨_, hd⟩⟩

/-- Settles O4: a word whose opcode is that of a command and whose other bits are as the list demands is in the
command's row, and a word of a row breaks no clause of the list. -/
theorem illegalWordsAreRejected : Obligations.IllegalWordsAreRejected := by
  intro w
  simp only [decode_error_iff, List.mem_cons, List.not_mem_nil, or_false]
  constructor
  · intro h
    by_contra hlegal
    have hrow : ∀ i, i.isCommand = true →
        w.toNat / 2 ^ freeBits i ≠ opcode i * 2 ^ (28 - freeBits i) := fun i hi => by
      rw [Ne, ← inRowOf_iff hi]; exact h i hi
    have hop : w.toNat / 2 ^ 28 < 11 := by omega
    interval_cases hcode : w.toNat / 2 ^ 28
    · exact hrow .nop rfl (by simp only [freeBits, opcode]; omega)
    · exact hrow (.enc 0 0 0) rfl (by simp only [freeBits, opcode]; omega)
    · exact hrow (.map 0 0) rfl (by simp only [freeBits, opcode]; omega)
    · exact hrow .clr rfl (by simp only [freeBits, opcode]; omega)
    · exact hrow (.col 0 0 0) rfl (by simp only [freeBits, opcode]; omega)
    · exact hrow (.plot 0 0) rfl (by simp only [freeBits, opcode]; omega)
    · exact hrow (.puti 0) rfl (by simp only [freeBits, opcode]; omega)
    · exact hrow (.rdpx 0) rfl (by simp only [freeBits, opcode]; omega)
    · exact hrow .tx rfl (by simp only [freeBits, opcode]; omega)
    · exact hrow (.take .buttonA) rfl (by simp only [freeBits, opcode]; omega)
    · exact hrow .time rfl (by simp only [freeBits, opcode]; omega)
  · intro h i hi hrow
    have hbits := (inRowOf_iff hi).1 hrow
    cases i with
    | sym0 | sym1 | reset | wireword => cases hi
    | _ => simp only [freeBits, opcode] at hbits; omega

/-- Settles O6: the decoders evaluated on each word. -/
theorem writtenOutWordsDecode : Obligations.WrittenOutWordsDecode := by
  unfold Obligations.WrittenOutWordsDecode
  decide

/-! ## WireWords (R102) -/

theorem inRow_padding_iff (w : Word) : inRow 0x000000FF 0x00000000 w = true ↔ w.toNat % 2 ^ 8 = 0 := by
  rw [inRow, beq_iff_eq, ← BitVec.toNat_inj, BitVec.toNat_and]
  exact Eq.congr_left (Nat.and_two_pow_sub_one_eq_mod w.toNat 8)

/-- What the engine reads in a word over a zero byte. -/
theorem decodeWire_of_padding {w : Word} (h : w.toNat % 2 ^ 8 = 0) :
    decodeWire w = some (.wireword (w.extractLsb' 24 8) (w.extractLsb' 16 8) (w.extractLsb' 8 8)) :=
  if_pos ((inRow_padding_iff w).2 h)

theorem decodeWire_eq_none_iff (w : Word) : decodeWire w = none ↔ w.toNat % 2 ^ 8 ≠ 0 := by
  rw [Ne, ← inRow_padding_iff]
  exact ite_eq_right_iff.trans (forall_congr' fun _ => iff_of_false nofun id)

/-- The word of a WireWord by arithmetic: `ENC` computes the same word. -/
theorem encode_wireword_toNat (g r b : Channel) :
    (encode (.wireword g r b)).toNat = g.toNat * 2 ^ 24 + r.toNat * 2 ^ 16 + b.toNat * 2 ^ 8 :=
  wireWord_toNat r g b

theorem toNat_extractLsb'_byte (w : Word) (k : Nat) : (w.extractLsb' k 8).toNat = w.toNat / 2 ^ k % 2 ^ 8 := by
  rw [BitVec.extractLsb'_toNat, Nat.shiftRight_eq_div_pow]

/-- A WireWord's bytes are read back. -/
theorem decodeWire_encode (g r b : Channel) : decodeWire (encode (.wireword g r b)) = some (.wireword g r b) := by
  have hw := encode_wireword_toNat g r b
  have hg : (encode (.wireword g r b)).extractLsb' 24 8 = g :=
    BitVec.eq_of_toNat_eq (by rw [toNat_extractLsb'_byte, hw]; omega)
  have hr : (encode (.wireword g r b)).extractLsb' 16 8 = r :=
    BitVec.eq_of_toNat_eq (by rw [toNat_extractLsb'_byte, hw]; omega)
  have hb : (encode (.wireword g r b)).extractLsb' 8 8 = b :=
    BitVec.eq_of_toNat_eq (by rw [toNat_extractLsb'_byte, hw]; omega)
  rw [decodeWire_of_padding (by omega), hg, hr, hb]

/-- What the engine reads in a word has this very word. -/
theorem encode_of_decodeWire {w : Word} {i : Instr} (h : decodeWire w = some i) : encode i = w := by
  by_cases hpad : w.toNat % 2 ^ 8 = 0
  · rw [decodeWire_of_padding hpad] at h
    cases h
    refine BitVec.eq_of_toNat_eq ?_
    rw [encode_wireword_toNat, toNat_extractLsb'_byte, toNat_extractLsb'_byte, toNat_extractLsb'_byte]
    omega
  · rw [(decodeWire_eq_none_iff w).2 hpad] at h
    cases h

/-- Settles O5, from the word by arithmetic and the engine's reading of a word over a zero byte. -/
theorem wireWordLayoutAndDecoding : Obligations.WireWordLayoutAndDecoding :=
  ⟨fun g r b => ⟨encode_wireword_toNat g r b, decodeWire_encode g r b⟩, fun _ _ => encode_of_decodeWire,
    decodeWire_eq_none_iff⟩

end Sys2Proof
end

section
/-! PROOF. The command port (30_encoding.md R92, R94): an accepted word runs, an illegal one faults, and what is offered
without being accepted leaves no trace. -/

namespace Sys2Proof.Machine

section
variable {s : State} {w : Word}

/-- A step in which a word is accepted does what the word says. -/
theorem step_eq_runWord (hp : paramsOk s.par = true) (hs : s.turn.stop = none) (hw : s.acceptedWord = some w) :
    step s = runWord s w := by
  obtain ⟨-, -, hr, -⟩ := accepted_ready hw
  simp [step_eq_tickOf hp hs, tickOf, hr, hw]

theorem runWord_of_ok {i : Instr} (h : decode w = .ok i) : runWord s w = exec i s := by
  simp [runWord, h]

theorem runWord_of_error {e : DecodeError} (h : decode w = .error e) : runWord s w = .next (illegalTick s w) := by
  simp [runWord, h]

end

/-- Settles O8: the step does what the word says, and the word says `i`. -/
theorem stepRunsTheAcceptedCommand : Obligations.StepRunsTheAcceptedCommand := fun _ _ _ hp hs hw hd =>
  (step_eq_runWord hp hs hw).trans (runWord_of_ok hd)

/-- Settles O9: the tick is `illegalTick`, a tick of the units with the fault registers written. -/
theorem illegalWordFaultsTheBlock : Obligations.IllegalWordFaultsTheBlock := by
  intro s w e hp hs hw hd
  rw [step_eq_runWord hp hs hw, runWord_of_error hd, answers_next]
  exact ⟨rfl, rfl, rfl, rfl, rfl, rfl, rfl, rfl⟩

/-! ## An offer that is not accepted -/

/-- `s` under a free host that drives `cmd_valid` and `cmd` as given in this tick. -/
def withOffer (s : State) (i : Inputs) (rest : List Inputs) (valid : Bool) (cmd : Word) : State :=
  { s with env := .port ({ i with cmdValid := valid, cmd := cmd } :: rest) }

section
variable {s : State} {i : Inputs} {rest : List Inputs} (valid : Bool) (cmd : Word)

theorem withOffer_par : (withOffer s i rest valid cmd).par = s.par := rfl

theorem turn_withOffer (he : s.env = .port (i :: rest)) :
    (withOffer s i rest valid cmd).turn = { s.turn with offer := if valid then some cmd else none } := by
  rw [turn_port he]; rfl

theorem cmdReady_withOffer (he : s.env = .port (i :: rest)) :
    (withOffer s i rest valid cmd).cmdReady = s.cmdReady := by
  rw [State.cmdReady, turn_withOffer valid cmd he]; rfl

theorem idleTick_withOffer (he : s.env = .port (i :: rest)) :
    idleTick (withOffer s i rest valid cmd) = idleTick s := by
  rw [idleTick, State.advance, State.advanceWith, turn_withOffer valid cmd he]; rfl

theorem resetTick_withOffer (he : s.env = .port (i :: rest)) :
    resetTick (withOffer s i rest valid cmd) = resetTick s := by
  rw [resetTick, resetTick, envAfterReset, envAfterReset, he]; rfl

/-- Where neither offer is accepted, the step does not depend on it. -/
theorem step_withOffer (he : s.env = .port (i :: rest)) (hnew : (withOffer s i rest valid cmd).acceptedWord = none)
    (hold : s.acceptedWord = none) : step (withOffer s i rest valid cmd) = step s := by
  simp only [step, tickChecked, tickOf, hnew, hold, idleTick_withOffer valid cmd he, resetTick_withOffer valid cmd he,
    turn_withOffer valid cmd he, withOffer_par]

end

theorem acceptedWord_of_not_ready {s : State} (h : s.cmdReady = false) : s.acceptedWord = none := by
  simp [State.acceptedWord, h]

theorem acceptedWord_of_no_offer {s : State} (h : s.turn.offer = none) : s.acceptedWord = none := by
  simp [State.acceptedWord, h]

/-- Settles O10: `cmd_ready` reads neither pin, and without it, or without `cmd_valid`, no word is accepted. -/
theorem unacceptedOfferHasNoEffect : Obligations.UnacceptedOfferHasNoEffect := by
  intro s i rest valid cmd he
  have hready := cmdReady_withOffer valid cmd he
  refine ⟨hready, fun hnot => ?_, fun hi hv => ?_⟩
  · exact step_withOffer valid cmd he (acceptedWord_of_not_ready (hready.trans hnot)) (acceptedWord_of_not_ready hnot)
  · have hnew : (withOffer s i rest valid cmd).turn.offer = none := by rw [turn_withOffer valid cmd he, hv]; rfl
    have hold : s.turn.offer = none := by rw [turn_port he]; simp [portTurn, samples, hi]
    exact step_withOffer valid cmd he (acceptedWord_of_no_offer hnew) (acceptedWord_of_no_offer hold)

end Sys2Proof.Machine
end

section
/-! PROOF. The items of the transmit engine (30_encoding.md R101 to R103; 43_transmitter.md R168 to R172, R176): the
tick in which each begins, and a WireWord on the wire. -/

namespace Sys2Proof.Machine

/-! ## The tick in which an item begins -/

section
variable {can : Bool} (s : State) (begun : Engine × List Word)

theorem itemTick_of_can (h : can = true) : itemTick s can begun = s.advanceWith false begun := if_pos h

theorem itemTick_of_cannot (h : can = false) : itemTick s can begun = s.advance false := by
  rw [itemTick, h]; rfl

/-- A tick in which the engine begins an item differs from one in which it goes on by itself in the engine and the queue
only. -/
theorem advanceWith_eq (acc : Bool) : s.advanceWith acc begun =
    { s.advance acc with engine := begun.1, txq := begun.2 ++ (seqStep s).push } := rfl

end

theorem exec_symbolOf_eq (bit : Bool) (s : State) : exec (symbolOf bit) s = .next (symbolTick s bit) := by
  cases bit <;> rfl

/-! ## The symbols (R101, R170) -/

/-- Below its top bit a symbol's register is the one before it, shifted. -/
theorem beginSymbol_sh_getLsbD (e : Engine) (bit : Bool) {i : Nat} (hi : i < 31) :
    (beginSymbol e bit).sh.getLsbD i = (e.sh <<< 1).getLsbD i := by
  have hmask : ∀ j < 31, (0x7FFFFFFF : Word).getLsbD j = true := by decide
  have htop : ∀ j < 31, (if bit then 0x80000000 else 0 : Word).getLsbD j = false := by cases bit <;> decide
  rw [beginSymbol, BitVec.getLsbD_or, BitVec.getLsbD_and, hmask i hi, htop i hi, Bool.and_true, Bool.or_false]

/-- Settles O28: both symbols begin as `beginSymbol` says. -/
theorem symbolsBeginAtTheEndOfABit : Obligations.SymbolsBeginAtTheEndOfABit := by
  intro s bit
  rw [exec_symbolOf_eq, answers_next, symbolTick]
  refine ⟨fun hcan => ?_, fun hcannot => by rw [itemTick_of_cannot s _ hcannot]⟩
  rw [itemTick_of_can s _ hcan]
  exact ⟨rfl, (inSymbol_beginSymbol s.engine bit).bit, fun _ hi => beginSymbol_sh_getLsbD s.engine bit hi, rfl, rfl,
    rfl, advanceWith_eq s _ false⟩

/-! ## The gap (R172) -/

/-- Settles O29: the gap begins as `beginGap` says. -/
theorem gapBeginsAtTheEndOfAWord : Obligations.GapBeginsAtTheEndOfAWord := by
  intro s
  rw [exec, execReset, answers_next]
  refine ⟨fun hcan => ?_, fun hcannot => by rw [itemTick_of_cannot s _ hcannot]⟩
  rw [itemTick_of_can s _ hcan]
  exact ⟨rfl, rfl, rfl, rfl, rfl, dout_of_not_shift nofun, advanceWith_eq s _ false⟩

/-! ## A WireWord (R168, R171) -/

/-- The tick in which the engine loads a WireWord, where it can. -/
theorem exec_wireword_of_wordEnd {g r b : Channel} {s : State} (hcan : atWordEnd s.par s.engine = true) :
    exec (.wireword g r b) s = .next (s.advanceWith false
      (loadWord s.engine (encode (.wireword g r b)), afterTaking (encode (.wireword g r b)) s.txq)) := by
  rw [exec, execWireword, itemTick_of_can s _ hcan]
  rfl

theorem afterTaking_cons (w : Word) (q : List Word) : afterTaking w (w :: q) = q := if_pos rfl

theorem afterTaking_of_head_ne {w : Word} {q : List Word} (h : q.head? ≠ some w) : afterTaking w q = q := if_neg h

/-- Settles O30: the word is loaded as `loadWord` says, and the queue loses it where it is the oldest. -/
theorem wireWordLoadsAtTheEndOfAWord : Obligations.WireWordLoadsAtTheEndOfAWord := by
  intro g r b s
  refine ⟨fun hcan => ?_, fun hcannot => ?_⟩
  · rw [exec_wireword_of_wordEnd hcan, answers_next]
    refine ⟨rfl, rfl, rfl, rfl, rfl, advanceWith_eq s _ false, fun rest hq => ?_, fun hq => ?_⟩
    · rw [advanceWith_txq, hq, afterTaking_cons]
    · rw [advanceWith_txq, afterTaking_of_head_ne hq]
  · rw [exec, execWireword, itemTick_of_cannot s _ hcannot]

/-- From the tick in which a word is loaded, it stays on the wire for `24 * T_BIT` ticks, `T_BIT` for each bit. -/
theorem onWire_run {par : Params} {w : Word} {t : State} (hp : paramsOk par = true) (hpar : t.par = par)
    (h0 : OnWire w 0 0 t.engine) (j p : Nat) (u : State) (hj : j < 24) (hph : p < bitTicks par)
    (hn : NoReset (bitTicks par * j + p) t) (hu : After (bitTicks par * j + p) t u) :
    u.par = par ∧ OnWire w j p u.engine := by
  refine (run_induct (fun k u => u.par = par ∧ ∀ j p, j < 24 → p < bitTicks par → k = bitTicks par * j + p →
    OnWire w j p u.engine) ⟨hpar, ?first⟩ ?step _ u hn hu).imp_right fun h => h j p hj hph rfl
  case first =>
    intro j p _ _ hk
    obtain ⟨hj0, rfl⟩ : bitTicks par * j = 0 ∧ p = 0 := by omega
    have hB : bitTicks par ≠ 0 := by have := three_le_bitTicks hp; omega
    obtain rfl : j = 0 := by simpa [hB] using hj0
    exact h0
  case step =>
    rintro k u v ⟨hup, ih⟩ hr hv
    obtain ⟨heng, -, -, -, -, hvp, -⟩ := step_units hr hv
    refine ⟨hvp.trans hup, fun j p hj hph hk => ?_⟩
    rw [heng, hup]
    match j, p with
    | j, p + 1 => exact ((ih j p hj (by omega) (by omega)).inside_bit hph u.txq).1
    | j + 1, 0 =>
      rw [Nat.mul_succ] at hk
      exact ((ih j (bitTicks par - 1) (by omega) (by omega) (by omega)).bit_end (by omega) hj u.txq).1
    | 0, 0 => omega

/-- Settles O33: the word is on the wire from its load on, and the pin follows it. -/
theorem wireWordWaveform : Obligations.WireWordWaveform := by
  intro g r b s t u j p hp hcan h hj hph hn hu
  cases (exec_wireword_of_wordEnd hcan).symm.trans h
  obtain ⟨hpar, hwire⟩ := onWire_run hp (advanceWith_par s _ _) (onWire_loadWord s.engine _) j p u hj hph hn hu
  rw [hwire.dout, hpar]

end Sys2Proof.Machine
end

section
/-! PROOF. The colour encoder (40_color_encoder.md R120 to R122): the response of `ENC` and the channels read back from
it. -/

namespace Sys2Proof.Machine

/-- The channels are recovered from the bytes of the word (R121), by the engine's own reading of it. -/
theorem wireWord_bytes (r g b : Channel) :
    (wireWord r g b).extractLsb' 24 8 = g ∧ (wireWord r g b).extractLsb' 16 8 = r ∧
      (wireWord r g b).extractLsb' 8 8 = b := by
  have hpad : (wireWord r g b).toNat % 2 ^ 8 = 0 := by rw [wireWord_toNat]; omega
  have hread : decodeWire (wireWord r g b) = some (.wireword g r b) := decodeWire_encode g r b
  rw [decodeWire_of_padding hpad] at hread
  simpa only [Option.some.injEq, Instr.wireword.injEq] using hread

/-- Settles O17: `ENC` only adds the response to the units' tick, and the word is known by arithmetic and by its
bytes. -/
theorem encReturnsTheWireWord : Obligations.EncReturnsTheWireWord := by
  intro r g b s
  obtain ⟨hg, hr, hb⟩ := wireWord_bytes r g b
  rw [exec, execEnc, answers_next]
  exact ⟨wireWord_toNat r g b, hr, hg, hb, rfl⟩

end Sys2Proof.Machine
end

section
/-! PROOF. The serpentine mapper (41_serpentine_mapper.md R130 to R133): an index is five times its row, counted from
the bottom, plus a column that runs one way or the other; both are read back from it. -/

namespace Sys2Proof.Machine

/-! ## The column within a row -/

/-- The column of the chain at column `c` of row `r` of the matrix, both rows counted from the bottom (R130); it is its
own inverse (R131). -/
def serpentineColumn (r c : Nat) : Nat := if r % 2 = 0 then 4 - c else c

theorem serpentineColumn_lt (r : Nat) {c : Nat} (hc : c < 5) : serpentineColumn r c < 5 := by
  unfold serpentineColumn
  split <;> omega

theorem serpentineColumn_serpentineColumn (r : Nat) {c : Nat} (hc : c < 5) :
    serpentineColumn r (serpentineColumn r c) = c := by
  unfold serpentineColumn
  split <;> omega

/-! ## The transform -/

theorem physicalIndex_eq (x y : Nat) : physicalIndex x y = (4 - y) * 5 + serpentineColumn (4 - y) x := rfl

section
variable {x y : Nat}

theorem physicalIndex_lt (hx : x < 5) : physicalIndex x y < 25 := by
  have := serpentineColumn_lt (4 - y) hx
  rw [physicalIndex_eq]
  omega

theorem physicalIndex_div (hx : x < 5) : physicalIndex x y / 5 = 4 - y := by
  have := serpentineColumn_lt (4 - y) hx
  rw [physicalIndex_eq]
  omega

theorem physicalIndex_mod (hx : x < 5) : physicalIndex x y % 5 = serpentineColumn (4 - y) x := by
  have := serpentineColumn_lt (4 - y) hx
  rw [physicalIndex_eq]
  omega

end

theorem physicalIndex_of_index {i : Nat} (hi : i < 25) :
    physicalIndex (serpentineColumn (i / 5) (i % 5)) (4 - i / 5) = i := by
  have hrow : 4 - (4 - i / 5) = i / 5 := by omega
  rw [physicalIndex_eq, hrow, serpentineColumn_serpentineColumn _ (Nat.mod_lt i (by decide)), Nat.div_add_mod']

theorem physicalIndex_inj {x y x' y' : Nat} (hx : x < 5) (hy : y < 5) (hx' : x' < 5) (hy' : y' < 5)
    (h : physicalIndex x y = physicalIndex x' y') : x = x' ∧ y = y' := by
  obtain rfl : y = y' := by
    have hrow : 4 - y = 4 - y' := by rw [← physicalIndex_div hx, h, physicalIndex_div hx']
    omega
  have hcol : serpentineColumn (4 - y) x = serpentineColumn (4 - y) x' := by
    rw [← physicalIndex_mod hx, h, physicalIndex_mod hx']
  exact ⟨by rw [← serpentineColumn_serpentineColumn (4 - y) hx, hcol, serpentineColumn_serpentineColumn _ hx'], rfl⟩

/-- Settles O19: row and column are read back from the index; the table is evaluated. -/
theorem transformIsABijection : Obligations.TransformIsABijection :=
  ⟨fun _ hx _ _ => physicalIndex_lt hx, fun _ hi => physicalIndex_of_index hi,
    fun _ hx _ hy _ hx' _ hy' h => physicalIndex_inj hx hy hx' hy' h, by decide⟩

/-! ## The command -/

theorem coordsValid_iff {x y : Coord} : coordsValid x y = true ↔ x.toNat ≤ 4 ∧ y.toNat ≤ 4 := by
  simp [coordsValid, nCol, nRow, Nat.lt_succ_iff]

/-- Settles O18: `MAP` only adds the response to the units' tick, and the index fits in the response. -/
theorem mapReturnsThePhysicalIndex : Obligations.MapReturnsThePhysicalIndex := by
  intro x y s hx hy
  have hfits : physicalIndex x.toNat y.toNat < 2 ^ 32 := (physicalIndex_lt (Nat.lt_succ_of_le hx)).trans (by decide)
  rw [exec_map_of_wellFormed s (coordsValid_iff.2 ⟨hx, hy⟩), answers_next]
  exact ⟨rfl, (BitVec.toNat_ofNat ..).trans (Nat.mod_eq_of_lt hfits)⟩

end Sys2Proof.Machine
end

section
/-! PROOF. The frame-buffer operations (42_frame_buffer_ops.md R141 to R145): each command is the units' tick with the
frame buffer, `COLOR` or the response written. -/

namespace Sys2Proof.Machine

/-! ## Colours (R15) -/

/-- The colour of three channels by arithmetic. -/
theorem rgb_toNat (r g b : Channel) : (rgb r g b).toNat = r.toNat * 2 ^ 16 + g.toNat * 2 ^ 8 + b.toNat := by
  have hr := r.isLt
  have hg := g.isLt
  have hb := b.isLt
  have hrg := or_eq_add (r.toNat * 2 ^ 16) (g.toNat * 2 ^ 8) 16 (by omega) (by omega)
  have hrgb := or_eq_add (r.toNat * 2 ^ 16 + g.toNat * 2 ^ 8) b.toNat 8 hb (by omega)
  simp only [rgb, BitVec.toNat_or, BitVec.toNat_shiftLeft, BitVec.toNat_setWidth, Nat.shiftLeft_eq]
  rw [show r.toNat % 2 ^ 24 * 2 ^ 16 % 2 ^ 24 = r.toNat * 2 ^ 16 by omega,
    show g.toNat % 2 ^ 24 * 2 ^ 8 % 2 ^ 24 = g.toNat * 2 ^ 8 by omega,
    show b.toNat % 2 ^ 24 = b.toNat by omega, hrg, hrgb]

/-- Settles O21: `COL` only writes `COLOR` over the units' tick, and the colour is known by arithmetic. -/
theorem colSetsTheColour : Obligations.ColSetsTheColour := by
  intro r g b s
  rw [exec, execCol, answers_next]
  exact ⟨rgb_toNat r g b, rfl, rfl⟩

/-! ## Pixels -/

theorem indexValid_iff {idx : PixelIndex} : indexValid idx = true ↔ idx.toNat ≤ 24 := by
  simp [indexValid, nLed, Nat.lt_succ_iff]

/-- A write leaves every entry but its own. -/
theorem getElem_fbWrite (s : State) (i j : Nat) (v : Colour) (hj : j < 25) :
    (fbWrite s i v).fb[j] = if j = i then v else s.fb[j] := by
  simp only [fbWrite_fb, Vector.getElem_setIfInBounds, eq_comm]

/-- Settles O22: valid coordinates make `PLOT` a write at their index over the units' tick. -/
theorem plotStoresOnePixel : Obligations.PlotStoresOnePixel := by
  intro x y s hx hy
  rw [exec_plot_of_wellFormed s (coordsValid_iff.2 ⟨hx, hy⟩), answers_next]
  exact ⟨fun i hi => getElem_fbWrite (s.advance true) _ i s.color hi, rfl⟩

/-- Settles O23: a valid index makes `PUTI` a write at it over the units' tick. -/
theorem putiStoresOnePixel : Obligations.PutiStoresOnePixel := by
  intro idx s hidx
  rw [exec_puti_of_wellFormed s (indexValid_iff.2 hidx), answers_next]
  exact ⟨fun i hi => getElem_fbWrite (s.advance true) _ i s.color hi, rfl⟩

theorem fbRead_of_lt (s : State) {i : Nat} (hi : i < 25) : fbRead s i = s.fb[i] := dif_pos hi

/-- Settles O24: a valid index makes `RDPX` add a response to the units' tick, and a colour fits in the response. -/
theorem rdpxReturnsOnePixel : Obligations.RdpxReturnsOnePixel := by
  intro idx s hidx
  rw [exec_rdpx_of_wellFormed s (indexValid_iff.2 hidx), answers_next, fbRead_of_lt s (Nat.lt_succ_of_le hidx)]
  exact ⟨BitVec.toNat_setWidth_of_le (by decide), rfl, rfl⟩

/-- Settles O20: `CLR` only writes the frame buffer over the units' tick, with the same zero everywhere. -/
theorem clrClearsTheFrameBuffer : Obligations.ClrClearsTheFrameBuffer := by
  intro s
  rw [exec, execClr, answers_next]
  exact ⟨fun i hi => Vector.getElem_replicate hi, rfl, rfl⟩

end Sys2Proof.Machine
end

section
/-! PROOF. One tick of the transmit engine and of its queue (43_transmitter.md R163, R164, R168 to R174). -/

namespace Sys2Proof.Machine

/-- Settles O39: the definition of the pin, its two flags read as the conditions they decide. -/
theorem doutRule : Obligations.DoutRule := by
  intro s
  rw [State.dout, Bool.and_eq_true, decide_eq_true_eq, decide_eq_true_eq]

/-! ## Where the engine stands -/

section
variable {p : Params} {e : Engine}

theorem atBitEnd_iff : atBitEnd p e = true ↔ e.eng = .idle ∨ (e.eng = .shift ∧ e.ph = bitTicks p - 1) := by
  cases he : e.eng <;> simp [atBitEnd, he]

theorem atWordEnd_iff :
    atWordEnd p e = true ↔ e.eng = .idle ∨ (e.eng = .shift ∧ e.ph = bitTicks p - 1 ∧ e.bitCnt = 1) := by
  cases he : e.eng <;> simp [atWordEnd, he]

/-- At the end of a word the engine takes the queue's oldest word (R168, R171). -/
theorem engineStep_takes (w : Word) (q : List Word) (h : atWordEnd p e = true) :
    engineStep p e (w :: q) = (loadWord e w, q) := by
  obtain he | ⟨he, hph, hb⟩ := atWordEnd_iff.1 h
  · exact engineStep_idle_cons w q he
  · simp [engineStep, he, hph, hb]

/-- Elsewhere the engine leaves the queue as it is. -/
theorem engineStep_keeps_queue (q : List Word) (h : atWordEnd p e = false) : (engineStep p e q).2 = q := by
  have hnot := mt (atWordEnd_iff (p := p) (e := e)).2 (by simp [h])
  obtain ⟨he, -⟩ | ⟨he, -⟩ | ⟨-, -, hs⟩ | ⟨-, -, -, hs⟩ | ⟨he, hph, hb, -⟩ | ⟨-, -, hs⟩ | ⟨-, -, hs⟩ | ⟨hs, -⟩ :=
    engineStep_cases p e q
  · exact absurd (.inl he) hnot
  · exact absurd (.inl he) hnot
  · rw [hs]
  · rw [hs]
  · exact absurd (.inr ⟨he, hph, hb⟩) hnot
  · rw [hs]
  · rw [hs]
  · rw [hs]

/-- The queue after the engine's pop (R163). -/
theorem engineStep_queue (q : List Word) : (engineStep p e q).2 = if atWordEnd p e then q.tail else q := by
  cases hend : atWordEnd p e with
  | false => exact engineStep_keeps_queue q hend
  | true =>
    cases q with
    | nil => exact List.suffix_nil.1 (engineStep_queue_suffix p e [])
    | cons w q => rw [engineStep_takes w q hend]; rfl

end

/-- What the sequencer pushes in one tick (R163, R167). -/
theorem seqStep_push (s : State) : (seqStep s).push =
    if s.seq = .spush ∧ s.txq.length < s.par.txqDepth then [wireOf (fbRead s s.sidx)] else [] := by
  obtain ⟨hs, hq⟩ | ⟨hs, -, -, hq⟩ | ⟨hs, -, hq⟩ | ⟨hs, hroom, hq⟩ | ⟨hs, hfull, hq⟩ := seqStep_cases s <;> rw [hq]
  · simp [hs]
  · simp [hs]
  · simp [hs]
  · simp [hs, hroom]
  · simp [hs, hfull]

theorem length_seqStep_push_le (s : State) : (seqStep s).push.length ≤ 1 := by
  rw [seqStep_push]
  split <;> simp

/-- Settles O38: the engine's pop and the sequencer's push both read the queue of `S(n)`. -/
theorem queueRules : Obligations.QueueRules := by
  intro s t hr hst
  obtain ⟨-, htxq, -⟩ := step_units hr hst
  rw [htxq, engineStep_queue, seqStep_push]

/-- Settles O37: the engine's own step, by where it stands. -/
theorem engineRules : Obligations.EngineRules := by
  intro s t hr hst e last
  obtain ⟨hp, -⟩ := step_cases hst
  have hbit : last + 1 = bitTicks s.par := Nat.sub_add_cancel (Nat.one_le_of_lt (three_le_bitTicks hp))
  have hgap : s.par.tReset - 1 + 1 = s.par.tReset := Nat.sub_add_cancel (tReset_pos hp)
  obtain ⟨heng, htxq, -⟩ := step_units hr hst
  refine ⟨atBitEnd_iff, atWordEnd_iff, dout_of_not_shift, ?idle, ?takes, ?insideBit, ?bitEnd, ?frameEnd, ?insideGap,
    ?gapEnd⟩
  case idle =>
    intro he hq
    rw [heng, hq, engineStep_idle_nil he]
  case takes =>
    intro w q hq hend
    rw [hq, engineStep_takes w q (atWordEnd_iff.2 hend)] at heng htxq
    exact ⟨heng, (seqStep s).push, length_seqStep_push_le s, htxq⟩
  case insideBit =>
    intro he hph
    rw [heng, engineStep_inside_bit s.txq he (by omega)]
  case bitEnd =>
    intro he hph hb
    rw [heng, engineStep_bit_end s.txq he (hph ▸ hbit) hb]
    rfl
  case frameEnd =>
    intro he hph hb hq
    rw [heng, hq, engineStep_frame_end he (hph ▸ hbit) hb]
    rfl
  case insideGap =>
    intro he hg
    rw [heng, engineStep_inside_gap s.txq he (by omega)]
  case gapEnd =>
    intro he hg
    rw [heng, engineStep_gap_end s.txq he (hg ▸ hgap)]

end Sys2Proof.Machine
end

section
/-! PROOF. One tick of the frame sequencer (43_transmitter.md R161, R165 to R167). -/

namespace Sys2Proof.Machine

/-- Settles O26: `TX` writes `SEQ` over the units' tick, and `cmd_ready` needs an idle sequencer. -/
theorem txStartsTheSequencer : Obligations.TxStartsTheSequencer := by
  intro s
  rw [exec, execTx, answers_next]
  exact ⟨rfl, fun _ => rfl⟩

/-- The sequencer's state after a tick in which it was idle: only an accepted `TX` starts it (R161, R165). -/
theorem step_seq_of_idle {s t : State} (hs : s.seq = .sidle) (hr : s.turn.rst = false) (hst : step s = .next t) :
    t.seq = if s.acceptedWord = some (encode .tx) then .swait else .sidle := by
  split
  case isTrue hw =>
    obtain ⟨hp, hstop, -⟩ := step_cases hst
    cases (stepRunsTheAcceptedCommand s _ .tx hp hstop hw (everyCommandDecodesFromItsWord .tx rfl)).symm.trans hst
    rfl
  case isFalse hw =>
    obtain hseq | ⟨-, -, w, hw', hd⟩ := step_seq hr hst
    · exact hseq.trans (seqStep_seq_of_idle hs)
    · obtain ⟨-, rfl⟩ := decodedWordIsTheEncoding w .tx hd
      exact absurd hw' hw

/-- A busy sequencer goes on by its own rule: it lets no command in (R39). -/
theorem step_seq_of_busy {s t : State} (hs : s.seq ≠ .sidle) (hr : s.turn.rst = false) (hst : step s = .next t) :
    t.seq = (seqStep s).seq :=
  (step_seq hr hst).resolve_right fun h => hs h.1

/-- Settles O36: an idle sequencer by `step_seq_of_idle`, a busy one by its own rule. -/
theorem sequencerRules : Obligations.SequencerRules := by
  refine ⟨fun s i hi => fbRead_of_lt s hi, fun s t hr hst => ?_⟩
  obtain ⟨-, htxq, hsidx, -⟩ := step_units hr hst
  have hseq := fun hs => step_seq_of_busy hs hr hst
  refine ⟨fun hs => step_seq_of_idle hs hr hst, ?blocked, ?begin, ?wait, ?push, ?full⟩
  case blocked =>
    intro hs
    simp [State.cmdReady, State.readyAt, hs]
  case begin =>
    intro hs he hq
    rw [hseq (by simp [hs]), hsidx]
    simp [seqStep, hs, he, hq]
  case wait =>
    intro hs hbusy
    rw [hseq (by simp [hs])]
    simp [seqStep, hs, hbusy]
  case push =>
    intro hs hroom hle
    rw [hseq (by simp [hs]), hsidx, htxq, seqStep_push, if_pos ⟨hs, hroom⟩]
    exact ⟨⟨_, rfl⟩, by simp [seqStep, hs, hroom], by simp [seqStep, hs, hroom]⟩
  case full =>
    intro hs hfull
    rw [hseq (by simp [hs]), hsidx]
    simp [seqStep, hs, hfull]

end Sys2Proof.Machine
end

section
/-! PROOF. The items the engine begins by itself, and the gap (43_transmitter.md R168 to R175). -/

namespace Sys2Proof.Machine

/-- A step in which no word is accepted is a tick of the units. -/
theorem step_of_no_accepted_word {s : State} (hp : paramsOk s.par = true) (hs : s.turn.stop = none)
    (hr : s.turn.rst = false) (hw : s.acceptedWord = none) : step s = .next (idleTick s) := by
  simp [step_eq_tickOf hp hs, tickOf, hr, hw]

/-- Going on to a word's next bit is beginning the symbol of that bit (R170). -/
theorem beginSymbol_next_bit {e : Engine} (he : e.eng = .shift) (hb : 1 < e.bitCnt) :
    beginSymbol e (e.sh.getLsbD 30) = nextBit e := by
  have hsh : (beginSymbol e (e.sh.getLsbD 30)).sh = e.sh <<< 1 := by
    refine BitVec.eq_of_getLsbD_eq fun i hi => ?_
    by_cases htop : i = 31
    · rw [htop, (inSymbol_beginSymbol e _).bit, BitVec.getLsbD_shiftLeft]
      rfl
    · exact beginSymbol_sh_getLsbD e _ (by omega)
  rw [nextBit_eq, ← hsh]
  simp [beginSymbol, he, hb]

/-- The three kinds of item the engine begins by itself. -/
theorem engineItem_cases {p : Params} {e : Engine} {q : List Word} {i : Instr} (h : engineItem p e q = some i) :
    (atWordEnd p e = true ∧ ∃ w r, q = w :: r ∧ decodeWire w = some i) ∨
    (atWordEnd p e = true ∧ e.eng = .shift ∧ q = [] ∧ i = .reset) ∨
    (e.eng = .shift ∧ e.ph = bitTicks p - 1 ∧ 1 < e.bitCnt ∧ i = symbolOf (e.sh.getLsbD 30)) := by
  unfold engineItem at h
  split at h
  case isTrue hend =>
    split at h
    case h_1 w r => exact .inl ⟨hend, w, r, rfl, h⟩
    case h_2 =>
      obtain ⟨he, hi⟩ := Option.ite_none_right_eq_some.1 h
      exact .inr (.inl ⟨hend, he, rfl, (Option.some_inj.1 hi).symm⟩)
  case isFalse =>
    obtain ⟨⟨he, hph, hb⟩, hi⟩ := Option.ite_none_right_eq_some.1 h
    exact .inr (.inr ⟨he, hph, hb, (Option.some_inj.1 hi).symm⟩)

/-- What the engine reads in a word it takes is a WireWord. -/
theorem decodeWire_isWireword {w : Word} {i : Instr} (h : decodeWire w = some i) : ∃ g r b, i = .wireword g r b := by
  obtain ⟨-, hi⟩ := Option.ite_none_right_eq_some.1 h
  exact ⟨_, _, _, (Option.some_inj.1 hi).symm⟩

/-- The meaning of the gap at the end of a word. -/
theorem exec_reset_of_wordEnd {s : State} (hend : atWordEnd s.par s.engine = true) :
    exec .reset s = .next (s.advanceWith false (beginGap s.engine, s.txq)) := by
  rw [exec, execReset, itemTick_of_can s _ hend]

/-- Settles O31: for each kind of item, the engine's own step is the beginning its meaning gives. -/
theorem engineBeginsTheDecodedItem : Obligations.EngineBeginsTheDecodedItem := by
  intro s i hp hs hr hw hitem
  rw [step_of_no_accepted_word hp hs hr hw, idleTick, State.advance]
  have hbit := three_le_bitTicks hp
  obtain ⟨hend, w, q, hq, hd⟩ | ⟨hend, he, hq, rfl⟩ | ⟨he, hph, hb, rfl⟩ := engineItem_cases hitem
  · obtain ⟨g, r, b, rfl⟩ := decodeWire_isWireword hd
    rw [exec_wireword_of_wordEnd hend, encode_of_decodeWire hd, hq, engineStep_takes w q hend, afterTaking_cons]
  · have hlast := (atWordEnd_iff.1 hend).resolve_left (by simp [he])
    rw [exec_reset_of_wordEnd hend, hq, engineStep_frame_end he (by omega) hlast.2.2]
  · rw [exec_symbolOf_eq, symbolTick, itemTick_of_can s _ (atBitEnd_iff.2 (.inr ⟨he, hph⟩)),
      beginSymbol_next_bit he hb, engineStep_bit_end s.txq he (by omega) hb]

/-- The engine is `k` ticks after the beginning of a gap, `k` up to `T_RESET` (R173, R174). -/
structure InGap (p : Params) (k : Nat) (e : Engine) : Prop where
  inside : k < p.tReset → e.eng = .gap ∧ e.gapCnt = k
  ended : k = p.tReset → e.eng = .idle ∧ e.gapCnt = 0

theorem inGap_beginGap {p : Params} (hp : paramsOk p = true) (e : Engine) : InGap p 0 (beginGap e) where
  inside _ := ⟨rfl, rfl⟩
  ended h := absurd (tReset_pos hp) (by omega)

/-- The tick in which the engine begins a gap, where it can. -/
theorem exec_reset_begins_gap {s t : State} (hp : paramsOk s.par = true) (hend : atWordEnd s.par s.engine = true)
    (h : exec .reset s = .next t) : t.par = s.par ∧ InGap s.par 0 t.engine := by
  cases (exec_reset_of_wordEnd hend).symm.trans h
  exact ⟨rfl, inGap_beginGap hp s.engine⟩

/-- The gap goes on whatever the queue holds (R175). -/
theorem InGap.next {p : Params} {k : Nat} {e : Engine} (h : InGap p k e) (hk : k < p.tReset) (q : List Word) :
    InGap p (k + 1) (engineStep p e q).1 := by
  obtain ⟨he, hg⟩ := h.inside hk
  constructor
  · intro hlt
    rw [engineStep_inside_gap q he (hg ▸ hlt)]
    exact ⟨he, congrArg (· + 1) hg⟩
  · intro hend
    rw [engineStep_gap_end q he (hg ▸ hend)]
    exact ⟨rfl, rfl⟩

/-- Settles O34: the engine counts the gap's ticks, and the line is low where no bit is sent. -/
theorem gapLastsTReset : Obligations.GapLastsTReset := by
  intro s t u k hp hend h hn hu
  obtain ⟨hpar, hbegun⟩ := exec_reset_begins_gap hp hend h
  have hrun : u.par = s.par ∧ (k ≤ s.par.tReset → InGap s.par k u.engine) := by
    refine run_induct (fun k u => u.par = s.par ∧ (k ≤ s.par.tReset → InGap s.par k u.engine))
      ⟨hpar, fun _ => hbegun⟩ ?_ k u hn hu
    rintro k u v ⟨hup, hgap⟩ hr hst
    obtain ⟨heng, -, -, -, -, hvp, -⟩ := step_units hr hst
    refine ⟨hvp.trans hup, fun hk => ?_⟩
    rw [heng, hup]
    exact (hgap (by omega)).next hk u.txq
  obtain ⟨-, hgap⟩ := hrun
  constructor
  · intro hk
    obtain ⟨he, hg⟩ := (hgap hk.le).inside hk
    exact ⟨he, hg, dout_of_not_shift (by simp [he])⟩
  · intro hk
    obtain ⟨he, hg⟩ := (hgap hk.le).ended hk
    exact ⟨he, hg, dout_of_not_shift (by simp [he])⟩

end Sys2Proof.Machine
end

section
/-! PROOF. The transmitter never runs dry inside a frame (43_transmitter.md R178): a pushing sequencer fills the queue
faster than the engine empties it. -/

namespace Sys2Proof.Machine

section
variable {s t : State}

/-- Only while the sequencer pushes is anything asked of the transmitter. -/
theorem supplied_of_not_pushing (hs : s.seq ≠ .spush) : Supplied s :=
  ⟨fun h => absurd h hs, fun h => absurd h hs, fun h => absurd h hs⟩

/-- Before the engine takes the frame's first word, what was pushed waits in the queue. -/
theorem supplied_of_starting {par : Params} {fb : Vector Colour nLed} {n : Nat} (h : Starting par fb n s)
    (hn : n ≤ 1) : Supplied s where
  notGap _ := by simp [h.eng]
  first _ _ := by
    rw [h.sidx, h.txq, List.length_take, length_frameWords]
    omega
  next _ he := nomatch h.eng.symm.trans he

/-- A sequencer begins to push from `SWAIT` only, before an idle engine and an empty queue (R166). -/
theorem waiting_of_begins_pushing (hr : s.turn.rst = false) (hst : step s = .next t) (hs : s.seq ≠ .spush)
    (ht : t.seq = .spush) : s.seq = .swait ∧ s.engine.eng = .idle ∧ s.txq = [] := by
  have hrest : s.engine.eng = .idle ∧ s.txq = [] := by
    by_contra hbusy
    exact (not_pushing_step hr hst hs hbusy).1 ht
  refine ⟨?_, hrest⟩
  cases hseq : s.seq with
  | sidle =>
    rw [step_seq_of_idle hseq hr hst] at ht
    split at ht <;> cases ht
  | swait => rfl
  | spush => exact absurd hseq hs

/-- A supplied transmitter has a word waiting at the end of a word: its queue is empty only in a word's first bit, which
is not the last one. -/
theorem Supplied.queue_at_word_end (h : Supplied s) (hs : s.seq = .spush)
    (he : s.engine.eng = .shift) (hend : atWordEnd s.par s.engine = true) : s.txq ≠ [] := by
  refine (h.next hs he).resolve_right fun ⟨hph, hb⟩ => ?_
  obtain hidle | ⟨-, -, hone⟩ := atWordEnd_iff.1 hend
  · cases he.symm.trans hidle
  · omega

/-- Everything the engine can do while the sequencer pushes: wait for the frame's first word, take a word, or go on
with the word on the wire. It begins no gap. -/
theorem Supplied.engineStep_cases (h : Supplied s) (hs : s.seq = .spush) :
    (s.engine.eng = .idle ∧ s.txq = [] ∧ engineStep s.par s.engine s.txq = (s.engine, [])) ∨
    (∃ w q, engineStep s.par s.engine s.txq = (loadWord s.engine w, q)) ∨
    ((engineStep s.par s.engine s.txq).1.eng = .shift ∧ (engineStep s.par s.engine s.txq).2 = s.txq) := by
  have hgap := h.notGap hs
  obtain ⟨he, hq, hst⟩ | ⟨-, w, q, -, hst⟩ | ⟨he, -, hst⟩ | ⟨he, -, -, hst⟩ |
    ⟨he, hph, hb, ⟨hq, -⟩ | ⟨w, q, -, hst⟩⟩ | ⟨he, -⟩ | ⟨he, -⟩ | ⟨hst, ⟨he, -⟩ | ⟨he, -⟩⟩ :=
    Machine.engineStep_cases s.par s.engine s.txq
  · exact .inl ⟨he, hq, hst⟩
  · exact .inr (.inl ⟨w, q, hst⟩)
  · exact .inr (.inr (by rw [hst]; exact ⟨he, rfl⟩))
  · exact .inr (.inr (by rw [hst]; exact ⟨he, rfl⟩))
  · exact absurd hq (h.queue_at_word_end hs he (atWordEnd_iff.2 (.inr ⟨he, hph, hb⟩)))
  · exact .inr (.inl ⟨w, q, hst⟩)
  · exact absurd he hgap
  · exact absurd he hgap
  · exact .inr (.inr (by rw [hst]; exact ⟨he, rfl⟩))
  · exact absurd he hgap

/-- While the sequencer pushes, the engine does not begin a gap. -/
theorem Supplied.step_not_gap (h : Supplied s) (hs : s.seq = .spush) (hr : s.turn.rst = false)
    (hst : step s = .next t) : t.engine.eng ≠ .gap := by
  obtain ⟨heng, -⟩ := step_units hr hst
  obtain ⟨he, -, hgo⟩ | ⟨w, q, hgo⟩ | ⟨he, -⟩ := h.engineStep_cases hs
  · simp [heng, hgo, he]
  · simp [heng, hgo]
  · simp [heng, he]

/-- A tick of a pushing sequencer: the engine waits and the first word is pushed, or it has just taken a word, or the
word on the wire goes on and the queue holds one, being full if none was pushed. -/
theorem Supplied.step_of_pushing (h : Supplied s) (hi : Inv s) (hs : s.seq = .spush) (hr : s.turn.rst = false)
    (hst : step s = .next t) : Supplied t := by
  obtain ⟨heng, htxq, -⟩ := step_units hr hst
  have hgap := h.step_not_gap hs hr hst
  obtain ⟨he, hq, -⟩ | ⟨w, q, hgo⟩ | ⟨he, hgo⟩ := h.engineStep_cases hs
  · have hstart : Starting s.par s.fb 0 s :=
      ⟨rfl, rfl, hs, (h.first hs he).1.trans (congrArg List.length hq), he, hq⟩
    exact supplied_of_starting (hstart.first_push hi.params hr hst) le_rfl
  · rw [hgo, loadWord_eq] at heng
    exact ⟨fun _ => hgap, by simp [heng], by simp [heng]⟩
  · rw [hgo] at htxq
    have hshift : t.engine.eng = .shift := heng ▸ he
    have hwaits : t.txq ≠ [] := by
      intro hnil
      obtain ⟨hq, hpush⟩ := List.append_eq_nil_iff.1 (htxq ▸ hnil)
      obtain ⟨-, -, hfull⟩ := pushing_step hr hst hs (hi.sidx hs)
      have hdepth := hfull hpush
      rw [hq, List.length_nil] at hdepth
      exact absurd (txqDepth_pos hi.params) (by omega)
    exact ⟨fun _ => hgap, by simp [hshift], fun _ _ => .inl hwaits⟩

/-- Every step keeps the transmitter supplied. -/
theorem Supplied.step (h : Supplied s) (hi : Inv s) (hst : step s = .next t) : Supplied t := by
  cases hr : s.turn.rst with
  | true =>
    rw [step_reset hr hst]
    exact supplied_of_not_pushing nofun
  | false =>
    by_cases hs : s.seq = .spush
    · exact h.step_of_pushing hi hs hr hst
    · by_cases ht : t.seq = .spush
      · obtain ⟨hwait, he, hq⟩ := waiting_of_begins_pushing hr hst hs ht
        exact supplied_of_starting (starting_of_waiting hwait he hq hr hst) (Nat.zero_le 1)
      · exact supplied_of_not_pushing ht

end

/-- Settles O41: the step lemma for `Supplied`, and what it says at the end of a word. -/
theorem noUnderrun : Obligations.NoUnderrun := fun _ _ hi h hst =>
  ⟨h.step hi hst, fun hs hr => ⟨h.queue_at_word_end hs, h.step_not_gap hs hr hst⟩⟩

end Sys2Proof.Machine
end

section
/-! PROOF. The block without a transmitter (43_transmitter.md R182; 60_exceptions.md R275). -/

namespace Sys2Proof.Machine

theorem absent_resetOf {p : Params} (hp : p.txPresent = false) : Absent (State.resetOf p) where
  absent := hp
  faulted := by simp [State.resetOf, hp]
  cause := by simp [State.resetOf, hp]
  sequencer := rfl
  queue := rfl
  engine := nofun

section
variable {s t : State}

/-- `Absent` does not speak of the outside or of the number of ticks. -/
theorem Absent.with_outside (h : Absent s) (env : Env) (tick : Nat) : Absent { s with env, tick } :=
  ⟨h.absent, h.faulted, h.cause, h.sequencer, h.queue, h.engine⟩

/-- A reset without a transmitter (R275). -/
theorem absent_of_reset (hp : s.par.txPresent = false) (hr : s.turn.rst = true) (hst : step s = .next t) :
    Absent t := by
  rw [step_reset hr hst]
  exact (absent_resetOf hp).with_outside _ _

/-- A faulted block is not ready (R39). -/
theorem Absent.not_ready (h : Absent s) : s.cmdReady = false := by
  simp [State.cmdReady, State.readyAt, h.faulted]

/-- With nothing queued the engine sends no bit unless it sends one already. -/
theorem engineStep_nil_not_shift {p : Params} {e : Engine} (he : e.eng ≠ .shift) :
    (engineStep p e []).1.eng ≠ .shift := by
  obtain ⟨-, -, hst⟩ | ⟨-, w, q, hq, -⟩ | ⟨hs, -⟩ | ⟨hs, -⟩ | ⟨hs, -⟩ | ⟨hg, -, hst⟩ | ⟨-, -, hst⟩ | ⟨hst, -⟩ :=
    engineStep_cases p e []
  · rw [hst]; exact he
  · cases hq
  · exact absurd hs he
  · exact absurd hs he
  · exact absurd hs he
  · rw [hst]; exact he
  · rw [hst]; exact nofun
  · rw [hst]; exact he

/-- Without reset nothing is accepted and nothing is queued, so the units' tick leaves the block at rest. -/
theorem absent_idleTick (h : Absent s) : Absent (idleTick s) where
  absent := h.absent
  faulted := h.faulted
  cause := h.cause
  sequencer := seqStep_seq_of_idle h.sequencer
  queue := by
    rw [idleTick, advance_txq, engineStep_queue, h.queue, seqStep_push]
    simp [h.sequencer]
  engine := by
    rw [idleTick, advance_engine, h.queue]
    exact engineStep_nil_not_shift h.engine

/-- Every step, resets included, keeps the block without a transmitter at rest (R182). -/
theorem Absent.step (h : Absent s) (hst : step s = .next t) : Absent t := by
  cases hr : s.turn.rst with
  | true => exact absent_of_reset h.absent hr hst
  | false =>
    obtain ⟨hp, hs, -⟩ := step_cases hst
    cases (step_of_no_accepted_word hp hs hr (acceptedWord_of_not_ready h.not_ready)).symm.trans hst
    exact absent_idleTick h

/-- Without reset nothing raises cause 1: a fault is an illegal word or an operand out of range (R275). -/
theorem step_cause_ne_txUnavailable (hr : s.turn.rst = false) (hst : step s = .next t)
    (hs : s.cause ≠ .txUnavailable) : t.cause ≠ .txUnavailable := by
  obtain ⟨-, hkept, -⟩ | ⟨-, w, -, ⟨e, -, hcause, -⟩ | ⟨i, -, -, hcause, -⟩⟩ := step_fault hr hst
  · rw [hkept]; exact hs
  · simp [hcause]
  · simp [hcause]

end

/-- Settles O53: `Absent` holds after a reset, every step keeps it, and it closes the command port and the line. -/
theorem absentTransmitterNeverAccepts : Obligations.AbsentTransmitterNeverAccepts := by
  have pins : ∀ s, Absent s → s.cmdReady = false ∧ s.acceptedWord = none ∧ s.dout = false := fun s h =>
    ⟨h.not_ready, acceptedWord_of_not_ready h.not_ready, dout_of_not_shift h.engine⟩
  refine ⟨fun p => absent_resetOf, fun s t => absent_of_reset, fun s t => Absent.step, pins, ?_,
    fun s t => step_cause_ne_txUnavailable⟩
  intro s t u k hp hr hst hu
  have h : Absent u := run_invariant Absent (fun _ _ => Absent.step) k t u (absent_of_reset hp hr hst) hu
  exact ⟨h.faulted, h.cause, pins u h⟩

end Sys2Proof.Machine
end

section
/-! PROOF. The debounced captures (44_debounce_capture.md R206 to R212): a capture unit makes its own tick, which reads the
unit, its button's sample and the clock; an accepted `TAKE` of the button adds one write of `PENDING`. -/

namespace Sys2Proof.Machine

/-! ## `TAKE` (R210, R211) -/

theorem exec_take (b : Button) (s : State) : exec (.take b) s =
    .next (setPending (respond (s.advance true) (flagWord (s.cap b).pending)) b (s.accepts b)) := rfl

theorem setPending_cap_same (s : State) (b : Button) (v : Bool) :
    (setPending s b v).cap b = { s.cap b with pending := v } := by cases b <;> rfl

theorem setPending_cap_other (s : State) {b b' : Button} (v : Bool) (h : b' ≠ b) :
    (setPending s b v).cap b' = s.cap b' := by
  cases b <;> cases b'
  · exact absurd rfl h
  · rfl
  · rfl
  · exact absurd rfl h

theorem respond_cap (s : State) (v : Word) (b : Button) : (respond s v).cap b = s.cap b := by cases b <;> rfl

/-- Settles O27: `TAKE` is the units' tick with a response and one write of `PENDING`. -/
theorem takeReadsAndClears : Obligations.TakeReadsAndClears := by
  intro b s
  rw [exec_take, answers_next]
  refine ⟨setPending_rspV _ b _, setPending_rsp _ b _, ?_, fun b' hb => ?_, ?_⟩
  · rw [setPending_cap_same, respond_cap]
  · rw [setPending_cap_other _ _ hb, respond_cap]
  · cases b <;> rfl

/-! ## A capture unit after a tick -/

section
variable {s t : State} (b : Button)

/-- Where its `TAKE` is accepted, `PENDING` is left set by an edge of the same tick only (R211). -/
theorem step_cap_of_take (h : step s = .next t) (hw : s.acceptedWord = some (encode (.take b))) :
    t.cap b = { (s.advance true).cap b with pending := s.accepts b } := by
  obtain ⟨hp, hs, -⟩ := step_cases h
  have hd : decode (encode (.take b)) = .ok (.take b) := everyCommandDecodesFromItsWord _ rfl
  rw [stepRunsTheAcceptedCommand s _ _ hp hs hw hd, exec_take] at h
  cases h
  rw [setPending_cap_same, respond_cap]

/-- Where its `TAKE` is not accepted, a capture unit makes its own tick (R202, R206). -/
theorem step_cap_of_not_take (hr : s.turn.rst = false) (h : step s = .next t)
    (hw : s.acceptedWord ≠ some (encode (.take b))) : t.cap b = (s.advance true).cap b := by
  obtain hcap | ⟨-, w, hacc, hd⟩ := step_cap b hr h
  · exact hcap
  · obtain ⟨-, henc⟩ := decodedWordIsTheEncoding w _ hd
    exact absurd (henc ▸ hacc) hw

/-- Neither the time nor the valid bit is written by `TAKE`: an accepted edge alone sets them (R206). -/
theorem step_lat_latV (hr : s.turn.rst = false) (h : step s = .next t) :
    (t.cap b).lat = (if s.accepts b then s.timeMs else (s.cap b).lat) ∧
    (t.cap b).latV = (s.accepts b || (s.cap b).latV) := by
  obtain hcap | ⟨hcap, -⟩ := step_cap b hr h <;> rw [hcap, advance_cap] <;>
    exact ⟨captureStep_lat .., captureStep_latV ..⟩

end

/-- Settles O47: by whether `TAKE` of the button is accepted; a reset clears the flag with the whole unit. -/
theorem pendingHasOneSetterAndOneClearer : Obligations.PendingHasOneSetterAndOneClearer := by
  intro s t b h
  refine ⟨fun hr => ?_, fun hr => ?_⟩
  · by_cases hw : s.acceptedWord = some (encode (.take b))
    · rw [step_cap_of_take b h hw]
      simp [hw]
    · rw [step_cap_of_not_take b hr h hw, advance_cap, captureStep_pending]
      simp [hw, State.accepts]
  · rw [step_reset hr h]
    cases b <;> rfl

/-! ## The accept rule (R206, R207, R209) -/

section
variable (p : Params) (now : Word) (c : Capture)

theorem windowOk_iff : windowOk p now c = true ↔ c.latV = false ∨ p.debounceMs < elapsedMs p now c.lat := by
  simp [windowOk]

theorem accept_iff : accept p now c = true ↔ fall c = true ∧ c.pending = false ∧ windowOk p now c = true := by
  simp [accept, and_assoc]

/-- The elapsed time by arithmetic: the 32-bit difference, reduced to `TIME_W` bits. -/
theorem elapsedMs_eq (earlier : Word) :
    elapsedMs p now earlier = (now.toNat + 2 ^ 32 - earlier.toNat) % 2 ^ 32 % 2 ^ p.timeW := by
  have hsub : (now - earlier).toNat = (now.toNat + 2 ^ 32 - earlier.toNat) % 2 ^ 32 := by bv_omega
  rw [elapsedMs, hsub]

/-- What has elapsed since a time that `d` was added to is `d`, the clock's wrap between them or not (R209). -/
theorem elapsedMs_add (earlier d : Word) : elapsedMs p (earlier + d) earlier = d.toNat % 2 ^ p.timeW := by
  rw [elapsedMs, add_sub_cancel_left]

end

/-- Settles O45: the rule by `accept_iff`, and what it writes by the rule of each of the three registers. -/
theorem acceptRule : Obligations.AcceptRule := by
  intro s t b hr h
  have hpending := (pendingHasOneSetterAndOneClearer s t b h).1 hr
  obtain ⟨hlat, hlatV⟩ := step_lat_latV b hr h
  refine ⟨?_, fun hacc => ?_, fun hacc => ?_⟩
  · rw [State.accepts, accept_iff, windowOk_iff, elapsedMs_eq]
  · simp [hpending, hlat, hlatV, hacc]
  · rw [hpending, hlat, hlatV, hacc, Bool.false_or, Bool.false_or, Bool.and_eq_true]
    exact ⟨rfl, rfl, And.left⟩

/-- Settles O46: what has elapsed is 200 or 201 ms, and the rule compares it with 200. -/
theorem windowBoundary : Obligations.WindowBoundary := by
  intro s b hms hw hprev hsync hpending hlatV
  have hfall : fall (s.cap b) = true := by simp [fall, hprev, hsync]
  have hacc : s.accepts b = true ↔ 200 < elapsedMs s.par s.timeMs (s.cap b).lat := by
    rw [State.accepts, accept_iff, windowOk_iff, hms]
    simp [hfall, hpending, hlatV]
  refine ⟨fun ht => ?_, fun ht => ?_⟩
  · rw [← Bool.not_eq_true, hacc, ht, elapsedMs_add, hw]
    decide
  · rw [hacc, ht, elapsedMs_add, hw]
    decide

/-! ## Independence (R212) -/

/-- Two states that agree in all that a tick of the capture unit of `b` reads. -/
structure SameForUnit (b : Button) (s s' : State) : Prop where
  par : s'.par = s.par
  timeMs : s'.timeMs = s.timeMs
  cap : s'.cap b = s.cap b
  sample : s'.turn.btn b = s.turn.btn b
  rst : s'.turn.rst = s.turn.rst
  accepted : s'.acceptedWord = s.acceptedWord

/-- A capture unit after a tick is a function of what `SameForUnit` names. -/
theorem SameForUnit.step_cap_eq {b : Button} {s s' t t' : State} (hsame : SameForUnit b s s')
    (h : step s = .next t) (h' : step s' = .next t') : t'.cap b = t.cap b := by
  obtain ⟨hpar, htime, hcap, hsample, hrst, hacc⟩ := hsame
  have hunit : (s'.advance true).cap b = (s.advance true).cap b := by
    rw [advance_cap, advance_cap, hpar, htime, hcap, hsample]
  cases hr : s.turn.rst with
  | true =>
    rw [step_reset hr h, step_reset (hrst.trans hr) h']
    cases b <;> exact congrArg Capture.afterReset hpar
  | false =>
    have hr' := hrst.trans hr
    by_cases hw : s.acceptedWord = some (encode (.take b))
    · have haccepts : s'.accepts b = s.accepts b := by rw [State.accepts, State.accepts, hpar, htime, hcap]
      rw [step_cap_of_take b h hw, step_cap_of_take b h' (hacc.trans hw), hunit, haccepts]
    · rw [step_cap_of_not_take b hr h hw, step_cap_of_not_take b hr' h' (hacc ▸ hw), hunit]

/-- The word accepted from a free host whose next pins are listed (R92). -/
theorem acceptedWord_port {s : State} {i : Inputs} {rest : List Inputs} (he : s.env = .port (i :: rest)) :
    s.acceptedWord = if s.readyAt i.rst then (if i.cmdValid then some i.cmd else none) else none := by
  rw [State.acceptedWord, State.cmdReady, turn_port he]
  rfl

/-- Settles O48: the other unit and the other sample are not among what `SameForUnit` names. -/
theorem buttonsAreIndependent : Obligations.ButtonsAreIndependent := by
  intro s i rest cap sample t t' he h
  have hturn : s.turn = portTurn s.tick (i :: rest) := turn_port he
  have hword := acceptedWord_port he
  refine ⟨fun h' => ?_, fun h' => ?_⟩
  · refine SameForUnit.step_cap_eq (b := .buttonA) ?_ h h'
    exact ⟨rfl, rfl, rfl, hturn ▸ rfl, hturn ▸ rfl, hword ▸ rfl⟩
  · refine SameForUnit.step_cap_eq (b := .buttonB) ?_ h h'
    exact ⟨rfl, rfl, rfl, hturn ▸ rfl, hturn ▸ rfl, hword ▸ rfl⟩

end Sys2Proof.Machine
end

section
/-! PROOF. The millisecond clock, `TIME` and `NOP` (45_time_and_misc.md R231 to R233): `PRESC` and `TIME_MS` count the
ticks since a reset, the remainder in one and the quotient in the other. -/

namespace Sys2Proof.Machine

/-! ## One tick of the clock (R231) -/

/-- A time of `TIME_W` bits fits the word that holds it, so the successor is the spec's own. -/
theorem timeSucc_toNat {p : Params} (hp : paramsOk p = true) (t : Word) :
    (timeSucc p t).toNat = (t.toNat + 1) % 2 ^ p.timeW := by
  obtain ⟨-, -, -, -, -, -, -, -, -, -, -, -, hw⟩ := paramsOk_facts hp
  have hlt : (t.toNat + 1) % 2 ^ p.timeW < 2 ^ 32 :=
    (Nat.mod_lt _ (Nat.two_pow_pos _)).trans_le (Nat.pow_le_pow_right Nat.two_pos hw)
  rw [timeSucc, BitVec.toNat_ofNat, Nat.mod_eq_of_lt hlt]

section
variable {s t : State}

/-- In the last tick of a millisecond. -/
theorem step_clock_wrap (hr : s.turn.rst = false) (h : step s = .next t) (hlast : s.presc = s.par.ticksPerMs - 1) :
    t.presc = 0 ∧ t.timeMs.toNat = (s.timeMs.toNat + 1) % 2 ^ s.par.timeW := by
  obtain ⟨-, -, -, hpresc, htime, -⟩ := step_units hr h
  rw [hpresc, htime, prescStep, timeStep, if_pos hlast, if_pos hlast]
  exact ⟨rfl, timeSucc_toNat (step_cases h).1 s.timeMs⟩

/-- In every other tick. -/
theorem step_clock_count (hr : s.turn.rst = false) (h : step s = .next t) (hlast : s.presc ≠ s.par.ticksPerMs - 1) :
    t.presc = s.presc + 1 ∧ t.timeMs = s.timeMs := by
  obtain ⟨-, -, -, hpresc, htime, -⟩ := step_units hr h
  rw [hpresc, htime, prescStep, timeStep, if_neg hlast, if_neg hlast]
  exact ⟨rfl, rfl⟩

end

/-! ## The clock since a reset -/

/-- The clock `n` ticks after a reset under the parameters `p`. -/
structure ClockAt (p : Params) (n : Nat) (s : State) : Prop where
  par : s.par = p
  presc : s.presc = n % p.ticksPerMs
  time : s.timeMs.toNat = n / p.ticksPerMs % 2 ^ p.timeW

theorem clockAt_resetTick (s : State) : ClockAt s.par 0 (resetTick s) where
  par := rfl
  presc := (Nat.zero_mod _).symm
  time := by simp

/-- In the last of `m` the quotient goes up and the remainder starts again. -/
theorem succ_div_mod_of_last {n m : Nat} (hm : 1 ≤ m) (h : n % m = m - 1) :
    (n + 1) / m = n / m + 1 ∧ (n + 1) % m = 0 := by
  refine (Nat.div_mod_unique hm).2 ⟨?_, hm⟩
  have := Nat.mod_add_div n m
  rw [Nat.mul_add]
  omega

/-- Before the last of `m` only the remainder goes up. -/
theorem succ_div_mod_of_not_last {n m : Nat} (hm : 1 ≤ m) (h : n % m ≠ m - 1) :
    (n + 1) / m = n / m ∧ (n + 1) % m = n % m + 1 := by
  have hlt := Nat.mod_lt n hm
  refine (Nat.div_mod_unique hm).2 ⟨?_, by omega⟩
  have := Nat.mod_add_div n m
  omega

theorem ClockAt.next {p : Params} {n : Nat} {s t : State} (h : ClockAt p n s) (hr : s.turn.rst = false)
    (hst : step s = .next t) : ClockAt p (n + 1) t := by
  obtain ⟨rfl, hpresc, htime⟩ := h
  obtain ⟨-, -, -, -, -, hpar, -⟩ := step_units hr hst
  obtain ⟨-, -, -, -, -, -, -, -, -, hm, -⟩ := paramsOk_facts (step_cases hst).1
  by_cases hlast : s.presc = s.par.ticksPerMs - 1
  · obtain ⟨hpresc', htime'⟩ := step_clock_wrap hr hst hlast
    obtain ⟨hdiv, hmod⟩ := succ_div_mod_of_last hm (hpresc ▸ hlast)
    exact ⟨hpar, by rw [hpresc', hmod], by rw [htime', htime, hdiv, Nat.mod_add_mod]⟩
  · obtain ⟨hpresc', htime'⟩ := step_clock_count hr hst hlast
    obtain ⟨hdiv, hmod⟩ := succ_div_mod_of_not_last hm (hpresc ▸ hlast)
    exact ⟨hpar, by rw [hpresc', hmod, hpresc], by rw [htime', htime, hdiv]⟩

/-- Settles O42: both cases of one tick, and `ClockAt` by induction over the run from the reset. -/
theorem timerRule : Obligations.TimerRule := by
  refine ⟨fun s t hr h => ⟨step_clock_wrap hr h, step_clock_count hr h⟩, fun s t u n hr h hn hu => ?_⟩
  have hstart : ClockAt s.par 0 t := step_reset hr h ▸ clockAt_resetTick s
  have hclock : ClockAt s.par n u :=
    run_induct (ClockAt s.par) hstart (fun _ _ _ hk hrk hst => hk.next hrk hst) n u hn hu
  exact ⟨hclock.time, hclock.presc⟩

/-! ## `NOP` and `TIME` (R232, R233) -/

theorem exec_nop (s : State) : exec .nop s = .next (s.advance true) := rfl

theorem exec_time (s : State) : exec .time s = .next (respond (s.advance true) s.timeMs) := rfl

/-- A free host goes on alike whether its offer is accepted or not. -/
theorem advance_port {s : State} {stream : List Inputs} (he : s.env = .port stream) (acc : Bool) :
    s.advance acc = s.advance false := by
  have hout : s.turn.taken = s.turn.held := by simp [State.turn, he, portTurn]
  have henv : (if acc then s.turn.taken else s.turn.held) = s.turn.held := by rw [hout, ite_self]
  rw [State.advance, State.advanceWith, henv]; rfl

/-- Settles O15: accepted, the word 0 is `NOP`, the units' tick; not accepted, the tick is the units' anyway. -/
theorem nopWritesNothing : Obligations.NopWritesNothing := by
  refine ⟨exec_nop, fun s i rest hp he hr hv hc => ?_⟩
  have hturn := turn_port he
  have hstop : s.turn.stop = none := by rw [hturn]; rfl
  have hrst : s.turn.rst = false := by rw [hturn]; exact hr
  have hoffer : s.turn.offer = some 0 := by rw [hturn, ← hc]; exact if_pos hv
  cases hw : s.acceptedWord with
  | none => exact step_of_no_accepted_word hp hstop hrst hw
  | some w =>
    obtain ⟨-, hw0⟩ := acceptedWord_eq_some_iff.1 hw
    obtain rfl : 0 = w := Option.some_inj.1 (hoffer.symm.trans hw0)
    have hdecode : decode 0 = .ok .nop := rfl
    rw [step_eq_runWord hp hstop hw, runWord_of_ok hdecode, exec_nop, advance_port he]

/-- Settles O16: `respond` writes `RSPV` and `RSP`, and nothing else. -/
theorem timeReadsTheClock : Obligations.TimeReadsTheClock := exec_time

end Sys2Proof.Machine
end

section
/-! PROOF. The reference host's arithmetic and its loop (47_host_reference.md R243, R250, R255, R256). -/

namespace Sys2Proof.Machine

/-! ## Scaling (R243) -/

theorem scale_toNat {p : Params} (c : Channel) (hp : p.intensityQ8 ≤ 256) :
    (scale p c).toNat = c.toNat * p.intensityQ8 / 256 := by
  have hmul : c.toNat * p.intensityQ8 ≤ 255 * 256 := Nat.mul_le_mul (Nat.le_of_lt_succ c.isLt) hp
  exact (BitVec.toNat_ofNat ..).trans (Nat.mod_eq_of_lt (by omega))

/-- Settles O56: an intensity up to 256 keeps the product below `256 * 256`, so its quotient is a channel. -/
theorem scalingTruncates : Obligations.ScalingTruncates := by
  intro p c hp
  have hscale := scale_toNat c hp
  refine ⟨hscale, fun hfull => BitVec.eq_of_toNat_eq ?_, fun hhalf => ?_⟩
  · rw [hscale, hfull, Nat.mul_div_cancel _ (by decide)]
  · rw [hscale, hhalf, show 256 = 2 * 128 from rfl, Nat.mul_div_mul_right _ _ (by decide)]

/-! ## The blink indicator (R250) -/

/-- Settles O58: the host compares the elapsed time, which `elapsedMs_eq` gives by arithmetic. -/
theorem blinkRule : Obligations.BlinkRule := by
  intro p h now
  rw [← elapsedMs_eq]
  exact ⟨fun hpassed => if_pos hpassed, fun hsooner => if_neg hsooner⟩

/-! ## The dispatch loop (R255, R256) -/

theorem digitUp_val (d : Fin 10) : (digitUp d).val = (d.val + 1) % 10 := by
  revert d; decide

theorem digitDown_val (d : Fin 10) : (digitDown d).val = (d.val + 9) % 10 := by
  revert d; decide

section
variable {p : Params} {h : RefHost} {rsp : Word}

theorem react_of_no_response : h.react p false rsp = h := rfl

theorem react_time (hw : h.wait = .time) :
    h.react p true rsp = { blinkTick p h rsp with todo := [.take .buttonA], wait := .none } := by
  simp [RefHost.react, hw]

theorem react_takeA_event (hw : h.wait = .takeA) (hrsp : rsp.getLsbD 0 = true) :
    h.react p true rsp =
      { h with
        digit := digitUp h.digit
        todo := render p h.font (digitUp h.digit) ++ [.take .buttonB]
        wait := .none } := by
  simp only [RefHost.react, hw, hrsp, if_true]

theorem react_takeA_none (hw : h.wait = .takeA) (hrsp : rsp.getLsbD 0 = false) :
    h.react p true rsp = { h with todo := [.take .buttonB], wait := .none } := by
  simp only [RefHost.react, hw, hrsp, if_true, Bool.false_eq_true, if_false]

theorem react_takeB_event (hw : h.wait = .takeB) (hrsp : rsp.getLsbD 0 = true) :
    h.react p true rsp =
      { h with
        digit := digitDown h.digit
        todo := render p h.font (digitDown h.digit) ++ [.time]
        wait := .none } := by
  simp only [RefHost.react, hw, hrsp, if_true]

theorem react_takeB_none (hw : h.wait = .takeB) (hrsp : rsp.getLsbD 0 = false) :
    h.react p true rsp = { h with todo := [.time], wait := .none } := by
  simp only [RefHost.react, hw, hrsp, if_true, Bool.false_eq_true, if_false]

theorem accepted_of_todo {i : Instr} {rest : List Instr} (ht : h.todo = i :: rest) :
    h.accepted = { h with todo := rest, wait := waitFor i } := by
  simp [RefHost.accepted, ht]

end

/-- Settles O59: the host's reaction to each response, and `waitFor` of each question. -/
theorem dispatchRule : Obligations.DispatchRule := fun p h rsp =>
  ⟨react_of_no_response, react_time,
    fun hw hrsp => by rw [react_takeA_event hw hrsp]; exact ⟨digitUp_val h.digit, rfl⟩,
    react_takeA_none,
    fun hw hrsp => by rw [react_takeB_event hw hrsp]; exact ⟨digitDown_val h.digit, rfl⟩,
    react_takeB_none,
    fun _ => accepted_of_todo, fun _ => accepted_of_todo, fun _ => accepted_of_todo⟩

end Sys2Proof.Machine
end

section
/-! PROOF. `render(d)` (47_host_reference.md R244, R245): its `PLOT`s write `COLOR` where the glyph is set and nowhere
else, over a frame buffer that its `CLR` has emptied. -/

namespace Sys2Proof.Machine

/-! ## The scaled colour (R244) -/

theorem red_eq_ofNat (c : Colour) : red c = BitVec.ofNat 8 (c.toNat / 2 ^ 16) := by
  rw [← red_toNat, BitVec.ofNat_toNat, BitVec.setWidth_eq]

theorem green_eq_ofNat (c : Colour) : green c = BitVec.ofNat 8 (c.toNat / 2 ^ 8 % 2 ^ 8) := by
  rw [← green_toNat, BitVec.ofNat_toNat, BitVec.setWidth_eq]

theorem blue_eq_ofNat (c : Colour) : blue c = BitVec.ofNat 8 (c.toNat % 2 ^ 8) := by
  rw [← blue_toNat, BitVec.ofNat_toNat, BitVec.setWidth_eq]

theorem scaledColour_toNat (p : Params) (g : Glyph) : (scaledColour p g).toNat =
    (scale p (BitVec.ofNat 8 (g.base.toNat / 2 ^ 16))).toNat * 2 ^ 16 +
    (scale p (BitVec.ofNat 8 (g.base.toNat / 2 ^ 8 % 2 ^ 8))).toNat * 2 ^ 8 +
    (scale p (BitVec.ofNat 8 (g.base.toNat % 2 ^ 8))).toNat := by
  rw [scaledColour, rgb_toNat, red_eq_ofNat, green_eq_ofNat, blue_eq_ofNat]

/-! ## A sequence of commands -/

/-- The state after the commands, one per tick. -/
def execAll (cmds : List Instr) (s : State) : Option State :=
  cmds.foldlM (fun u i => match exec i u with | .next v => some v | _ => none) s

@[simp] theorem execAll_nil (s : State) : execAll [] s = some s := rfl

theorem execAll_cons {i : Instr} {s t : State} (cmds : List Instr) (h : exec i s = .next t) :
    execAll (i :: cmds) s = execAll cmds t := by
  simp [execAll, h]

theorem execAll_append {cmds : List Instr} {s t : State} (rest : List Instr) (h : execAll cmds s = some t) :
    execAll (cmds ++ rest) s = execAll rest t := by
  rw [execAll, List.foldlM_append]
  exact congrArg (· >>= execAll rest) h

/-! ## `PLOT` at a position of the matrix -/

/-- The `PLOT` of a logical position. -/
def plotAt (x y : Fin 5) : Instr := .plot (BitVec.ofNat 3 x.val) (BitVec.ofNat 3 y.val)

theorem coord_toNat (x : Fin 5) : (BitVec.ofNat 3 x.val : Coord).toNat = x.val := by
  revert x; decide

theorem plotAt_inj {x y x' y' : Fin 5} : plotAt x y = plotAt x' y' ↔ x = x' ∧ y = y' := by
  refine ⟨fun h => ?_, fun ⟨hx, hy⟩ => by rw [hx, hy]⟩
  obtain ⟨hx, hy⟩ := Instr.plot.inj h
  exact ⟨Fin.ext (by rw [← coord_toNat x, hx, coord_toNat]), Fin.ext (by rw [← coord_toNat y, hy, coord_toNat])⟩

theorem exec_plotAt (x y : Fin 5) (s : State) :
    exec (plotAt x y) s = .next (fbWrite (s.advance true) (physicalIndex x y) s.color) := by
  have hvalid : coordsValid (BitVec.ofNat 3 x.val) (BitVec.ofNat 3 y.val) = true :=
    coordsValid_iff.2 ⟨by rw [coord_toNat]; omega, by rw [coord_toNat]; omega⟩
  rw [plotAt, exec_plot_of_wellFormed s hvalid, coord_toNat, coord_toNat]

/-- No two positions share an entry of the frame buffer (R131). -/
theorem physicalIndex_eq_iff_plotAt_eq {x y x' y' : Fin 5} :
    physicalIndex x y = physicalIndex x' y' ↔ plotAt x y = plotAt x' y' := by
  rw [plotAt_inj]
  refine ⟨fun h => ?_, fun ⟨hx, hy⟩ => by rw [hx, hy]⟩
  obtain ⟨hx, hy⟩ := physicalIndex_inj x.isLt y.isLt x'.isLt y'.isLt h
  exact ⟨Fin.ext hx, Fin.ext hy⟩

theorem fbRead_fbWrite_position (s : State) (x y x' y' : Fin 5) (v : Colour) :
    fbRead (fbWrite s (physicalIndex x' y') v) (physicalIndex x y) =
      if plotAt x y = plotAt x' y' then v else fbRead s (physicalIndex x y) := by
  rw [fbRead_fbWrite _ _ _ _ (physicalIndex_lt x.isLt)]
  exact if_congr (eq_comm.trans physicalIndex_eq_iff_plotAt_eq) rfl rfl

/-- `PLOT`s paint their positions in `COLOR` and leave the others, in whatever order they come. -/
theorem execAll_plots {cmds : List Instr} (hplots : ∀ i ∈ cmds, ∃ x y, i = plotAt x y) (s : State) :
    ∃ t, execAll cmds s = some t ∧ ∀ x y : Fin 5, fbRead t (physicalIndex x y) =
      if plotAt x y ∈ cmds then s.color else fbRead s (physicalIndex x y) := by
  induction cmds generalizing s with
  | nil => exact ⟨s, rfl, fun x y => by simp⟩
  | cons i rest ih =>
    obtain ⟨⟨x', y', rfl⟩, hrest⟩ := List.forall_mem_cons.1 hplots
    obtain ⟨t, ht, hshown⟩ := ih hrest (fbWrite (s.advance true) (physicalIndex x' y') s.color)
    refine ⟨t, (execAll_cons rest (exec_plotAt x' y' s)).trans ht, fun x y => ?_⟩
    rw [hshown, fbRead_fbWrite_position]
    by_cases hin : plotAt x y ∈ rest
    · rw [if_pos hin, if_pos (List.mem_cons_of_mem _ hin)]; rfl
    · simp only [List.mem_cons, hin, if_false, or_false]; rfl

/-! ## The `PLOT`s of a glyph -/

theorem glyphBit_eq (g : Glyph) (x y : Fin 5) :
    glyphBit g x y = g.bitmap[y.val * 5 + x.val]'(by simp only [nLed]; omega) := by
  have hlt : y.val * 5 + x.val < 25 := by omega
  simp [glyphBit, hlt]

/-- The commands are the `PLOT`s of the set positions. -/
theorem mem_renderPlots {g : Glyph} {i : Instr} :
    i ∈ renderPlots g ↔ ∃ x y : Fin 5, glyphBit g x y = true ∧ i = plotAt x y := by
  simp only [renderPlots, List.mem_flatMap, List.mem_filterMap, List.mem_range]
  constructor
  · rintro ⟨y, hy, x, hx, h⟩
    obtain ⟨hbit, hi⟩ := Option.ite_none_right_eq_some.1 h
    exact ⟨⟨x, hx⟩, ⟨y, hy⟩, hbit, (Option.some_inj.1 hi).symm⟩
  · rintro ⟨x, y, hbit, rfl⟩
    exact ⟨y, y.isLt, x, x.isLt, if_pos hbit⟩

theorem plotAt_mem_renderPlots {g : Glyph} {x y : Fin 5} :
    plotAt x y ∈ renderPlots g ↔ glyphBit g x y = true := by
  rw [mem_renderPlots]
  refine ⟨fun ⟨x', y', hbit, h⟩ => ?_, fun hbit => ⟨x, y, hbit, rfl⟩⟩
  obtain ⟨rfl, rfl⟩ := plotAt_inj.1 h
  exact hbit

/-! ## The whole sequence (R245) -/

/-- After `CLR`, in the glyph's colour after `COL`. -/
def canvas (p : Params) (g : Glyph) (s : State) : State :=
  { { s.advance true with fb := Vector.replicate nLed 0 }.advance true with color := scaledColour p g }

theorem canvas_color (p : Params) (g : Glyph) (s : State) : (canvas p g s).color = scaledColour p g := rfl

theorem fbRead_canvas (p : Params) (g : Glyph) (s : State) (x y : Fin 5) :
    fbRead (canvas p g s) (physicalIndex x y) = 0 :=
  (fbRead_of_lt _ (physicalIndex_lt x.isLt)).trans (Vector.getElem_replicate _)

/-- `CLR` and `COL` prepare the canvas for the `PLOT`s. -/
theorem execAll_render (p : Params) (font : Font) (d : Fin 10) (s : State) :
    execAll (render p font d) s = execAll (renderPlots font[d] ++ [.tx]) (canvas p font[d] s) := rfl

/-- Settles O57: the `PLOT`s paint the canvas by `execAll_plots`, and `TX` leaves the frame buffer and starts the
sequencer. -/
theorem renderShowsTheGlyph : Obligations.RenderShowsTheGlyph := by
  refine ⟨scaledColour_toNat, fun p font d s => ?_⟩
  have hplots : ∀ i ∈ renderPlots font[d], ∃ x y, i = plotAt x y := fun i hi => by
    obtain ⟨x, y, -, rfl⟩ := mem_renderPlots.1 hi
    exact ⟨x, y, rfl⟩
  obtain ⟨u, hu, hshown⟩ := execAll_plots hplots (canvas p font[d] s)
  refine ⟨{ u.advance true with seq := .swait }, ?_, fun x y => ?_, rfl⟩
  · exact (execAll_render p font d s).trans (execAll_append [.tx] hu)
  · calc fbRead { u.advance true with seq := .swait } (physicalIndex x y)
      _ = fbRead u (physicalIndex x y) := rfl
      _ = _ := by simp only [hshown, plotAt_mem_renderPlots, glyphBit_eq, canvas_color, fbRead_canvas]

end Sys2Proof.Machine
end

section
/-! PROOF. The exceptions (60_exceptions.md R272 to R279): what raises a fault, and that it stands until reset. -/

namespace Sys2Proof.Machine

/-! ## Raising a fault -/

theorem map_plot_illFormed {x y : Coord} (h : 4 < x.toNat ∨ 4 < y.toNat) :
    (Instr.map x y).wellFormed = false ∧ (Instr.plot x y).wellFormed = false := by
  have hbad : coordsValid x y = false := Bool.eq_false_iff.2 fun hvalid => by
    obtain ⟨hx, hy⟩ := coordsValid_iff.1 hvalid
    omega
  exact ⟨hbad, hbad⟩

theorem puti_rdpx_illFormed {idx : PixelIndex} (h : 24 < idx.toNat) :
    (Instr.puti idx).wellFormed = false ∧ (Instr.rdpx idx).wellFormed = false := by
  have hbad : indexValid idx = false := Bool.eq_false_iff.2 fun hvalid => h.not_ge (indexValid_iff.1 hvalid)
  exact ⟨hbad, hbad⟩

/-- Settles O25: the operand is out of range, so the tick is `raiseFault`, a tick of the units with the fault registers
written. -/
theorem badIndexFaultsTheBlock : Obligations.BadIndexFaultsTheBlock := by
  intro i s hi
  have hwf : i.wellFormed = false := by
    obtain ⟨x, y, hxy, rfl | rfl⟩ | ⟨idx, hidx, rfl | rfl⟩ := hi
    · exact (map_plot_illFormed hxy).1
    · exact (map_plot_illFormed hxy).2
    · exact (puti_rdpx_illFormed hidx).1
    · exact (puti_rdpx_illFormed hidx).2
  rw [exec_of_illFormed s hwf, answers_next]
  exact ⟨rfl, rfl, rfl, rfl, rfl, rfl, rfl, rfl⟩

/-- Settles O52: `step_fault` names the accepted word, and a word that decodes is its instruction's own encoding, so
`INFO` is that word in both cases. -/
theorem faultsComeFromAcceptedWords : Obligations.FaultsComeFromAcceptedWords := by
  intro s t hr hf hst ht
  obtain ⟨hkept, -⟩ | ⟨-, w, hw, hwhy⟩ := step_fault hr hst
  · cases ht.symm.trans (hkept.trans hf)
  · obtain ⟨e, he, hcause, hinfo⟩ | ⟨i, hi, hwf, hcause, hinfo⟩ := hwhy
    · exact ⟨w, hw, hinfo, .inl ⟨e, he, hcause⟩⟩
    · have hword : encode i = w := (decodedWordIsTheEncoding w i hi).2
      exact ⟨w, hw, hinfo.trans hword, .inr ⟨i, hi, hwf, hcause⟩⟩

/-! ## In the fault state -/

/-- A faulted block is not ready (R39, R278). -/
theorem cmdReady_of_fault {s : State} (h : s.fault = true) : s.cmdReady = false := by
  simp [State.cmdReady, State.readyAt, h]

/-- Settles O51: a faulted block accepts nothing, so its tick is the units' own, which writes none of these registers
but `RSPV`. -/
theorem faultIsSticky : Obligations.FaultIsSticky := by
  intro s hp hs hf hr
  have hnone : s.acceptedWord = none := acceptedWord_of_not_ready (cmdReady_of_fault hf)
  refine ⟨hnone, ?_⟩
  rw [step_of_no_accepted_word hp hs hr hnone, answers_next]
  exact ⟨rfl, hf, rfl, rfl, rfl, rfl, rfl, rfl, cmdReady_of_fault hf⟩

end Sys2Proof.Machine
end

section
/-! PROOF. Reset (70_reset_and_hazards.md R300, R301; 10_state.md R35): the reset state, and the tick that leads to it. -/

namespace Sys2Proof.Machine

/-- The code of `CAUSE` in the reset state (R271, R275). -/
theorem causeCode_resetOf (p : Params) : causeCode (State.resetOf p).cause = if p.txPresent then 0 else 1 :=
  apply_ite causeCode _ _ _

/-- The block is ready after reset iff its transmitter is present (R39, R275). -/
theorem readyAt_resetOf (p : Params) : (State.resetOf p).readyAt false = p.txPresent := by
  simp [State.readyAt, State.resetOf]

/-- Settles O13: every register by the definition of the reset state; its engine is in the gap, so the line is low. -/
theorem resetValues : Obligations.ResetValues := fun p =>
  ⟨rfl, rfl, rfl, rfl, rfl, rfl, rfl, rfl, rfl, rfl, rfl, causeCode_resetOf p, rfl, rfl, rfl, dout_of_not_shift nofun,
    readyAt_resetOf p⟩

section
variable {s : State}

/-- The block is not ready while `rst = 1` (R39, R300). -/
theorem cmdReady_of_rst (hr : s.turn.rst = true) : s.cmdReady = false := by
  simp [State.cmdReady, State.readyAt, hr]

/-- A step with `rst = 1` is the reset tick (R300). -/
theorem step_eq_resetTick (hp : paramsOk s.par = true) (hs : s.turn.stop = none) (hr : s.turn.rst = true) :
    step s = .next (resetTick s) := by
  rw [step_eq_tickOf hp hs, tickOf, if_pos hr]

end

/-- Settles O12: the block is not ready, and the reset tick leaves every register as the reset state has it. -/
theorem resetOverridesAll : Obligations.ResetOverridesAll := by
  intro s hp hs hr
  have hready := cmdReady_of_rst hr
  refine ⟨hready, acceptedWord_of_not_ready hready, ?_⟩
  rw [step_eq_resetTick hp hs hr, answers_next]
  exact ⟨rfl, rfl, rfl, rfl, rfl, rfl, rfl, rfl, rfl, rfl, rfl, causeCode_resetOf s.par, rfl, rfl, rfl, rfl⟩

end Sys2Proof.Machine
end
